-- ==== Sys2Proof/Word.lean ====
section
/-! DEFINITION. The word types of the machine and the widths the spec fixes
(00_scope.md R7: register width 64; 30_encoding.md R85: one 32-bit instruction word). -/

namespace Sys2Proof

/-- A 64-bit register or transfer value (10_state.md R20, R22, R26). -/
abbrev Word := BitVec 64

/-- One byte: an `Attr` field (10_state.md R21) or a byte of instruction memory (20_memory.md R61). -/
abbrev Byte := BitVec 8

/-- A 32-bit A64 instruction word (30_encoding.md R85). -/
abbrev InsnWord := BitVec 32

end Sys2Proof
end

