-- ==== Sys2Proof/Config.lean ====
section
/-! DEFINITION. What one implementation fixes: the configuration `Cfg` (00_scope.md R7) and the one free choice
of the model (70_reset_and_hazards.md R176, the race). -/

namespace Sys2Proof

/-- How `MAIR2_EL2` behaves from EL3 when EL2 is not implemented (10_state.md R24, decision D13). -/
inductive Res0Mode where
  /-- A read returns zero, a write changes nothing. -/
  | razWi
  /-- The register holds what was written. -/
  | storage
  deriving DecidableEq, Repr

/-- What an unsynchronised cross-name access does (70_reset_and_hazards.md R176, decision D11). The rule gives both:
its own choice, the refusal, and the alternative a model may take, the race. DESIGN CHOICE (log entry 7): the
model holds both and a claim fixes one or quantifies over the two. -/
inductive CrossNameMode where
  /-- `Refused(UnsynchronisedCrossNameAccess)`: the spec's own rule. -/
  | refuse
  /-- The accesses race: they take effect in any order that keeps each name's own accesses in program order. -/
  | race
  deriving DecidableEq, Repr

/-- The configuration of a PE, constant for it (00_scope.md R7). `crossName` is the model's own (log entry 7). -/
structure Cfg where
  /-- `IsFeatureImplemented(FEAT_AIE)`. -/
  featAIE : Bool
  /-- `IsFeatureImplemented(FEAT_AA64)`. -/
  featAA64 : Bool
  /-- `IsFeatureImplemented(FEAT_XS)`. -/
  featXS : Bool
  /-- `IsFeatureImplemented(FEAT_MTE2)`. -/
  featMTE2 : Bool
  /-- `IsFeatureImplemented(FEAT_FGT)`. -/
  featFGT : Bool
  /-- `HaveEL(EL3)`. -/
  haveEL3 : Bool
  /-- "If EL2 is not implemented" of 10_state.md R24, negated. -/
  haveEL2 : Bool
  /-- 10_state.md R24. -/
  res0Mode : Res0Mode
  /-- 70_reset_and_hazards.md R176. -/
  crossName : CrossNameMode
  deriving DecidableEq, Repr

/-- The free choice of the race (R176: "any of them"): which place in the order of effects an access takes, one choice
for each draw. It has no body: a claim holds whatever it answers (log entry 8). -/
opaque Config.raceChoice : Nat → Nat

end Sys2Proof
end

