-- ==== Sys2Proof/Syntax.lean ====
section
/-! DEFINITION. The syntax: the six accessors of spec/opcode_table.json, with the accessor name kept
(30_encoding.md R90, R91). -/

namespace Sys2Proof

/-- The register name written in the instruction, as distinct from the register reached (30_encoding.md R91). -/
inductive AccessorName where
  | mair2El1
  | mair2El12
  | mair2El2
  deriving DecidableEq, Repr

/-- The direction of an accessor: MRS reads, MSR writes (30_encoding.md R80). -/
inductive AccessKind where
  | read
  | write
  deriving DecidableEq, Repr

/-- The operand `<Xt>`: `X0` to `X30`, or `XZR` for number 31 (30_encoding.md R87, R90). -/
inductive XReg where
  | x (n : Nat)
  | xzr
  deriving DecidableEq, Repr

/-- The instructions, one constructor per row of spec/opcode_table.json. -/
inductive Instr where
  /-- `MRS <Xt>, MAIR2_EL1` (R100). -/
  | mrsMair2El1 (t : XReg)
  /-- `MSR MAIR2_EL1, <Xt>` (R101). -/
  | msrMair2El1 (t : XReg)
  /-- `MRS <Xt>, MAIR2_EL12` (R110). -/
  | mrsMair2El12 (t : XReg)
  /-- `MSR MAIR2_EL12, <Xt>` (R111). -/
  | msrMair2El12 (t : XReg)
  /-- `MRS <Xt>, MAIR2_EL2` (R120). -/
  | mrsMair2El2 (t : XReg)
  /-- `MSR MAIR2_EL2, <Xt>` (R121). -/
  | msrMair2El2 (t : XReg)
  deriving DecidableEq, Repr

/-- The operand of an instruction: each has exactly one (49_families_not_in_sources.md R131). -/
def Instr.operand : Instr → XReg
  | .mrsMair2El1 t => t
  | .msrMair2El1 t => t
  | .mrsMair2El12 t => t
  | .msrMair2El12 t => t
  | .mrsMair2El2 t => t
  | .msrMair2El2 t => t

/-- The accessor name an instruction is written with (30_encoding.md R91). -/
def Instr.name : Instr → AccessorName
  | .mrsMair2El1 _ => .mair2El1
  | .msrMair2El1 _ => .mair2El1
  | .mrsMair2El12 _ => .mair2El12
  | .msrMair2El12 _ => .mair2El12
  | .mrsMair2El2 _ => .mair2El2
  | .msrMair2El2 _ => .mair2El2

/-- The direction of an instruction (30_encoding.md R80). -/
def Instr.kind : Instr → AccessKind
  | .mrsMair2El1 _ => .read
  | .msrMair2El1 _ => .write
  | .mrsMair2El12 _ => .read
  | .msrMair2El12 _ => .write
  | .mrsMair2El2 _ => .read
  | .msrMair2El2 _ => .write

end Sys2Proof
end

