-- ==== Sys2Proof/WellFormed.lean ====
section
/-! DEFINITION. Which instruction terms exist: the one operand names one of `X0` to `X30` or `XZR`
(10_state.md R26, 30_encoding.md R87). -/

namespace Sys2Proof

/-- `t` in 0..30 names `Xt`, `t = 31` the zero register (30_encoding.md R87); there is no `X31`. -/
def XReg.wellFormed : XReg → Bool
  | .x n => decide (n ≤ 30)
  | .xzr => true

/-- `XReg.wellFormed` as a proposition. -/
abbrev XReg.WellFormed (t : XReg) : Prop := t.wellFormed = true

/-- An instruction is well formed when its operand is. -/
def Instr.wellFormed (i : Instr) : Bool := i.operand.wellFormed

/-- `Instr.wellFormed` as a proposition. -/
abbrev Instr.WellFormed (i : Instr) : Prop := i.wellFormed = true

end Sys2Proof
end

