-- ==== Sys2Proof/Decode.lean ====
section
/-! DEFINITION. Decoding and encoding (30_encoding.md R80 to R89). The encoder is written from the word layout of R85
and the tuples of R82 to R84, the decoder from the mask and match values of R86. The word layout itself is
PRESUMED (K2, log entry 11). -/

namespace Sys2Proof

/-- Why bytes are no instruction of the six. -/
inductive DecodeReject where
  /-- Fewer than the 4 bytes of an instruction word (30_encoding.md R89). -/
  | truncated
  /-- The word is not one of the six (30_encoding.md R88). -/
  | notInScope (word : InsnWord)
  deriving DecidableEq, Repr

/-- `word[4:0]` read as a register operand (30_encoding.md R87). -/
def XReg.ofField (f : BitVec 5) : XReg := if f = 31#5 then .xzr else .x f.toNat

/-- The field `Rt` of a register operand (30_encoding.md R87). -/
def XReg.toField : XReg → BitVec 5
  | .x n => BitVec.ofNat 5 n
  | .xzr => 31#5

/-- The mask of all six instructions: every bit but `Rt` is fixed (30_encoding.md R86). -/
def insnMask : InsnWord := 0xFFFFFFE0#32

/-- The decoder: a word is instruction `i` exactly when `w & mask == match_i` (30_encoding.md R86). -/
def decode (w : InsnWord) : Except DecodeReject Instr :=
  let m := w &&& insnMask
  let t := XReg.ofField (w.extractLsb' 0 5)
  if m = 0xD538A220#32 then .ok (.mrsMair2El1 t)
  else if m = 0xD518A220#32 then .ok (.msrMair2El1 t)
  else if m = 0xD53DA220#32 then .ok (.mrsMair2El12 t)
  else if m = 0xD51DA220#32 then .ok (.msrMair2El12 t)
  else if m = 0xD53CA120#32 then .ok (.mrsMair2El2 t)
  else if m = 0xD51CA120#32 then .ok (.msrMair2El2 t)
  else .error (.notInScope w)

/-- A word from its four bytes, the byte at the lowest address in bits [7:0] (20_memory.md R61, log entry 17). -/
def wordOfBytes (b0 b1 b2 b3 : Byte) : InsnWord := b3 ++ b2 ++ b1 ++ b0

/-- The four bytes of a word, lowest address first (20_memory.md R61). -/
def bytesOfWord (w : InsnWord) : List Byte :=
  [w.extractLsb' 0 8, w.extractLsb' 8 8, w.extractLsb' 16 8, w.extractLsb' 24 8]

/-- The decoder on bytes in ascending address order: the instruction and the bytes after it. -/
def decodeBytes : List Byte → Except DecodeReject (Instr × List Byte)
  | b0 :: b1 :: b2 :: b3 :: rest =>
    match decode (wordOfBytes b0 b1 b2 b3) with
    | .ok i => .ok (i, rest)
    | .error r => .error r
  | _ => .error .truncated

/-- What the decoder reads from an instruction whose bits are `w` (spec/opcode_table.json's numbering), laid out as
4 bytes; the bits above `nbits` are 0. -/
def decodeTableWord (nbits w : Nat) : Option Instr :=
  match decodeBytes (bytesOfWord (BitVec.ofNat 32 (w % 2 ^ nbits))) with
  | .ok (i, _) => some i
  | .error _ => none

/-- The bit `L`: 1 for MRS, 0 for MSR (30_encoding.md R85). -/
def AccessKind.bitL : AccessKind → BitVec 1
  | .read => 1#1
  | .write => 0#1

/-- The field `op1` of a name (30_encoding.md R82 to R84). -/
def AccessorName.op1 : AccessorName → BitVec 3
  | .mair2El1 => 0b000#3
  | .mair2El12 => 0b101#3
  | .mair2El2 => 0b100#3

/-- The field `CRm` of a name (30_encoding.md R82 to R84). -/
def AccessorName.crm : AccessorName → BitVec 4
  | .mair2El1 => 0b0010#4
  | .mair2El12 => 0b0010#4
  | .mair2El2 => 0b0001#4

/-- The word of R85's layout: the fixed bits [31:22], then L, op0 = 11, op1, CRn = 1010, CRm, op2 = 001, Rt. -/
def sysMoveWord (k : AccessKind) (n : AccessorName) (rt : BitVec 5) : InsnWord :=
  0b1101010100#10 ++ k.bitL ++ 0b11#2 ++ n.op1 ++ 0b1010#4 ++ n.crm ++ 0b001#3 ++ rt

/-- The word of an instruction (30_encoding.md R85, R86). -/
def encode (i : Instr) : InsnWord := sysMoveWord i.kind i.name i.operand.toField

end Sys2Proof
end

