-- ==== Sys2Proof/Machine/State.lean ====
section
/-! DEFINITION. The state of the machine as plain data, its faults and refusals, and the state after reset
(10_state.md; 00_scope.md R7, R12; INVENTORY.md, '## State'). -/

namespace Sys2Proof.Machine

/-- The Exception levels; the current one is `PSTATE.EL` (10_state.md R29). -/
inductive EL where
  | el0
  | el1
  | el2
  | el3
  deriving DecidableEq, Repr

/-- The context: what the accessors read and nothing in scope writes (10_state.md R30). A bit is a `Bool`, true for 1.
No relation among the fields is assumed (R31). -/
structure Ctx where
  /-- `PSTATE.EL`. -/
  el : EL
  /-- `EL3SDDUndefPriority()`. -/
  sddPrio : Bool
  /-- `EL3SDDUndef()`. -/
  sddUndef : Bool
  /-- `SCR_EL3.AIEn`. -/
  scrAIEn : Bool
  /-- `SCR_EL3.FGTEn`. -/
  scrFGTEn : Bool
  /-- `EL2Enabled()`. -/
  el2Enabled : Bool
  /-- `HCR_EL2.TRVM`. -/
  hcrTRVM : Bool
  /-- `HCR_EL2.TVM`. -/
  hcrTVM : Bool
  /-- `HFGRTR_EL2.nMAIR2_EL1`; 0 traps. -/
  fgtR : Bool
  /-- `HFGWTR_EL2.nMAIR2_EL1`; 0 traps. -/
  fgtW : Bool
  /-- `EffectiveHCR_EL2_NVx()`. -/
  nvx : BitVec 3
  /-- `ELIsInHost(EL2)`. -/
  inHostEL2 : Bool
  deriving DecidableEq, Repr

/-- Instruction memory: the bytes of the program, addresses strictly rising (20_memory.md R65, R72). An unlisted
address has no value (log entry 5). -/
abbrev Memory := List Host.Cell

/-- One entry of the order in which accesses took effect, for the race of R176. -/
structure Effect where
  /-- The name the access was made under; `none` for the value held at the last synchronisation. -/
  source : Option AccessorName
  /-- Its direction; the value at the last synchronisation stands as written. -/
  kind : AccessKind
  /-- The register's value right after it: the value written, or the value read. -/
  value : Word
  deriving DecidableEq, Repr

/-- The record of accesses to one register since the last synchronisation (10_state.md R34, R176). -/
structure Unsync where
  /-- The list of (accessor name, kind), oldest first. -/
  accesses : List (AccessorName × AccessKind)
  /-- For the race of R176: the same accesses in the order in which they took effect, the latest first, with their
  values, and the value at the last synchronisation as the last entry; empty when nothing is recorded. -/
  effects : List Effect
  deriving DecidableEq, Repr

/-- The machine. -/
structure State where
  /-- The configuration of the PE (00_scope.md R7). -/
  cfg : Cfg
  /-- The context (10_state.md R30). -/
  ctx : Ctx
  /-- `X0` to `X30` (10_state.md R26). -/
  regs : Vector Word 31
  /-- The address of the instruction being executed (10_state.md R28). -/
  pc : Word
  /-- `MAIR2_EL1` (10_state.md R20). -/
  mair2El1 : Word
  /-- `MAIR2_EL2` (10_state.md R22). -/
  mair2El2 : Word
  /-- `NVMem[0x280]` (10_state.md R32). -/
  nvmem280 : Word
  /-- Unsynchronised accesses to `MAIR2_EL2` from EL2 in host mode (R176). -/
  unsyncEL2 : Unsync
  /-- Unsynchronised accesses to `MAIR2_EL1` from EL3 with EL2 in host mode (R176). -/
  unsyncEL1 : Unsync
  /-- The model's own: how many free choices the race has taken (log entry 8). -/
  raceDraws : Nat
  /-- The environment's `ContextSync` steps still to come, each by the pc it precedes (R71, R181, log entry 10). -/
  syncPlaces : List Word
  /-- Instruction memory (20_memory.md R72). -/
  mem : Memory
  deriving DecidableEq, Repr

/-- The target Exception level of a system access trap (60_exceptions.md R141). -/
inductive TrapTarget where
  | el2
  | el3
  deriving DecidableEq, Repr

/-- What the sources describe as an exception; terminal, the state as before the instruction (R12, R140, R141, R147).
Ending the run there is safe: nothing can be claimed of what a handler does (log entry 6). -/
inductive Fault where
  /-- `Fault(Undefined)`, raised by every accessor where the sources write UNDEFINED (R140, R142). Safe. -/
  | undefined
  /-- `Fault(SysTrap(target, 0x18, word))`, raised by every accessor where the sources call
  `AArch64.SystemAccessTrap` (R141, R142). Safe. -/
  | sysTrap (target : TrapTarget) (code : BitVec 8) (word : InsnWord)
  deriving DecidableEq, Repr

/-- What the spec gives no meaning (00_scope.md R12). Each is safe: nothing can be claimed of the run after it. -/
inductive Refusal where
  /-- An instruction of the table without a meaning yet; raised by `exec` alone. Safe. -/
  | notModelled (mnemonic : String)
  /-- A word that is not one of the six, raised by the fetch (30_encoding.md R88, decision D1). Safe. -/
  | notInScope (word : InsnWord)
  /-- An unsynchronised cross-name access, raised by a transfer when `cfg.crossName` is `refuse` (R176). Safe. -/
  | unsynchronisedCrossNameAccess
  /-- `pc + 4` wraps around at 2^64, raised by a completing accessor (10_state.md R28, decision D8). Safe. -/
  | pcWrap
  /-- `pc` is no multiple of 4, raised by the fetch (20_memory.md R62). Safe. -/
  | pcMisaligned
  /-- No program word stands at `pc`, raised by the fetch. The spec says nothing of such a step: DESIGN CHOICE (log
  entry 5). Safe. -/
  | fetchOutsideProgram
  deriving DecidableEq, Repr

/-- The configuration at reset: 95_test_vectors.md's base configuration, with both memory-type features, RES0 as
RAZ/WI and R176's refusal. DESIGN CHOICE, unsafe to rest on (log entry 4). -/
def resetCfg : Cfg :=
  { featAIE := true, featAA64 := true, featXS := true, featMTE2 := true, featFGT := true
    haveEL3 := true, haveEL2 := true, res0Mode := .razWi, crossName := .refuse }

/-- The context at reset: the highest Exception level (PRESUMED, K28) and 95_test_vectors.md's base context
(DESIGN CHOICE). Unsafe to rest on (log entry 3). -/
def resetCtx : Ctx :=
  { el := .el3, sddPrio := false, sddUndef := false, scrAIEn := true, scrFGTEn := true
    el2Enabled := true, hcrTRVM := false, hcrTVM := false, fgtR := true, fgtW := true
    nvx := 0b000#3, inHostEL2 := false }

/-- The machine right after reset. The spec states no reset value of any register (R35 to R37); each value here is a
DESIGN CHOICE, zero (log entries 1 and 2), and the lists are empty as R34 says. -/
def State.reset : State :=
  { cfg := resetCfg
    ctx := resetCtx
    regs := Vector.replicate 31 0#64
    pc := 0#64
    mair2El1 := 0#64
    mair2El2 := 0#64
    nvmem280 := 0#64
    unsyncEL2 := { accesses := [], effects := [] }
    unsyncEL1 := { accesses := [], effects := [] }
    raceDraws := 0
    syncPlaces := []
    mem := [] }

end Sys2Proof.Machine
end

