-- ==== Sys2Proof/Machine/Memory.lean ====
section
/-! DEFINITION. The named operations over instruction memory (20_memory.md R61, R72): a list of (address, byte) pairs
in one canonical form. -/

namespace Sys2Proof.Machine

/-- The byte at an address; `none` where nothing is listed (log entry 5). -/
def Memory.read : Memory → Nat → Option Byte
  | [], _ => none
  | c :: m, a => if c.1 = a then some c.2 else Memory.read m a

/-- The canonical form, all addresses at or above `lo`: strictly rising and below 2^64. -/
def Memory.risingFrom : Nat → Memory → Bool
  | _, [] => true
  | lo, c :: m => decide (lo ≤ c.1) && decide (c.1 < 2 ^ 64) && Memory.risingFrom (c.1 + 1) m

/-- The canonical form of memory: addresses strictly rising, all below 2^64. An unlisted address has no value, so no
entry equals what an unlisted address reads as. -/
def Memory.wf (m : Memory) : Bool := Memory.risingFrom 0 m

/-- Lists byte `b` at address `a`, in place of what stood there. -/
def Memory.insert (a : Nat) (b : Byte) : Memory → Memory
  | [] => [(a, b)]
  | c :: m =>
    if a < c.1 then (a, b) :: c :: m
    else if a = c.1 then (a, b) :: m
    else c :: Memory.insert a b m

/-- Writes byte `b` at the 64-bit address `a`. -/
def Memory.write (m : Memory) (a : Word) (b : Byte) : Memory := Memory.insert a.toNat b m

/-- Writes bytes at consecutive addresses from `a`, the first at `a`. Addresses wrap around at 2^64, which the spec leaves
open: DESIGN CHOICE (log entry 27). -/
def Memory.writeBytes (m : Memory) (a : Word) : List Byte → Memory
  | [] => m
  | b :: bs => Memory.writeBytes (Memory.write m a b) (a + 1#64) bs

end Sys2Proof.Machine
end

