-- ==== Sys2Proof/Machine/Operands.lean ====
section
/-! DEFINITION. The one operand form of the accessors: the general register `<Xt>` (10_state.md R26, R27). -/

namespace Sys2Proof.Machine

/-- `x[t]` (00_scope.md R10): `Xt` as 64 bits; number 31 reads as zero (10_state.md R27). A register that does not
exist reads as zero too (no word decodes to one, log entry 22). -/
def readX (t : XReg) (s : State) : Word :=
  match t with
  | .x n => if h : n < 31 then s.regs[n] else 0#64
  | .xzr => 0#64

/-- The register file with `Xt` replaced; number 31, and a register that does not exist, change nothing (10_state.md
R27, log entry 22). -/
def setReg (t : XReg) (v : Word) (regs : Vector Word 31) : Vector Word 31 :=
  match t with
  | .x n => if h : n < 31 then regs.set n v else regs
  | .xzr => regs

/-- `x[t] <- v` (00_scope.md R10): writes `Xt`; for number 31 the value is discarded (10_state.md R27). -/
def writeX (t : XReg) (v : Word) (s : State) : State := { s with regs := setReg t v s.regs }

end Sys2Proof.Machine
end

