-- ==== Sys2Proof/Machine/Ops.lean ====
section
/-! DEFINITION. The operations the six accessors share: raising an exception, reading and writing the place an access
reaches, the cross-name hazard, and completion. -/

namespace Sys2Proof.Machine

/-- What an access name resolves to: a register or the memory cell (10_state.md section 6). -/
inductive Place where
  | mair2El1
  | mair2El2
  | nvmem280
  deriving DecidableEq, Repr

/-- The leaf an accessor's chain of tests ends in (00_scope.md R11): an exception, or the place of the one transfer. -/
inductive Verdict where
  | undefined
  | trap (target : TrapTarget)
  | reach (p : Place)
  deriving DecidableEq, Repr

/-- The outcome of one instruction. -/
abbrev StepOutcome := Host.Outcome State Fault Refusal

/-! ### Exceptions -/

/-- `raise Undefined()` (60_exceptions.md R140): terminal, nothing is transferred. -/
def raiseUndefined : StepOutcome := .fault .undefined

/-- `raise SystemAccessTrap(target, 0x18)` for the instruction word (60_exceptions.md R141): terminal, nothing is
transferred. -/
def systemAccessTrap (target : TrapTarget) (word : InsnWord) : StepOutcome :=
  .fault (.sysTrap target 0x18#8 word)

/-! ### The places of a transfer -/

/-- `MAIR2_EL2` is RES0: accessed from EL3 with EL2 not implemented (10_state.md R24). -/
def mair2El2IsRes0 (s : State) : Bool := decide (s.ctx.el = .el3) && !s.cfg.haveEL2

/-- The RES0 register reads as zero and ignores writes (10_state.md R24, `res0Mode = RazWi`). -/
def mair2El2RazWi (s : State) : Bool := mair2El2IsRes0 s && decide (s.cfg.res0Mode = .razWi)

/-- The 64 bits a read of the place returns (10_state.md R23, R24; `NVMemRead(0x280)`, 20_memory.md R60). -/
def readPlace (p : Place) (s : State) : Word :=
  match p with
  | .mair2El1 => s.mair2El1
  | .mair2El2 => if mair2El2RazWi s then 0#64 else s.mair2El2
  | .nvmem280 => s.nvmem280

/-- All 64 bits of the place replaced (10_state.md R23, R24; `NVMemWrite(0x280, v)`, 20_memory.md R60). -/
def writePlace (p : Place) (v : Word) (s : State) : State :=
  match p with
  | .mair2El1 => { s with mair2El1 := v }
  | .mair2El2 => if mair2El2RazWi s then s else { s with mair2El2 := v }
  | .nvmem280 => { s with nvmem280 := v }

/-! ### The cross-name hazard (70_reset_and_hazards.md R176) -/

/-- The two pairs of names whose accesses reach one register. -/
inductive HazardPair where
  /-- `MAIR2_EL1` and `MAIR2_EL2` reaching `MAIR2_EL2`: the list `unsyncEL2`. -/
  | el2
  /-- `MAIR2_EL1` and `MAIR2_EL12` reaching `MAIR2_EL1`: the list `unsyncEL1` (log entry 9). -/
  | el1
  deriving DecidableEq, Repr

/-- Which list a transfer with the place is recorded in, if any: `MAIR2_EL2` at EL2, `MAIR2_EL1` at EL3, each with EL2
in host mode (R176). -/
def hazardPair (c : Ctx) (p : Place) : Option HazardPair :=
  match c.el, c.inHostEL2, p with
  | .el2, true, .mair2El2 => some .el2
  | .el3, true, .mair2El1 => some .el1
  | _, _, _ => none

/-- The record of a pair. -/
def unsyncOf (h : HazardPair) (s : State) : Unsync :=
  match h with
  | .el2 => s.unsyncEL2
  | .el1 => s.unsyncEL1

/-- The record of a pair replaced. -/
def setUnsync (h : HazardPair) (u : Unsync) (s : State) : State :=
  match h with
  | .el2 => { s with unsyncEL2 := u }
  | .el1 => { s with unsyncEL1 := u }

/-- R176's test: some recorded access under another name, that access or this one a write. -/
def conflicts (l : List (AccessorName × AccessKind)) (n : AccessorName) (k : AccessKind) : Bool :=
  l.any fun e => decide (e.1 ≠ n) && (decide (k = .write) || decide (e.2 = .write))

/-- The transfer under name `n` meets an unsynchronised access under another name (R176). -/
def crossNameHazard (n : AccessorName) (k : AccessKind) (p : Place) (s : State) : Bool :=
  match hazardPair s.ctx p with
  | none => false
  | some h => conflicts (unsyncOf h s).accesses n k

/-! The race of R176. The accesses since the last synchronisation take effect in some order that keeps each name's own
accesses in program order (20_memory.md R70), and an access may take effect before accesses made earlier under the other
name. A position in the order is the number of effects already there that the access takes effect before; 0 is program
order. -/

/-- The order of effects so far, the latest first. Where nothing is recorded it holds the current value alone: the value
at the last synchronisation. -/
def effectOrder (u : Unsync) (current : Word) : List Effect :=
  if u.effects.isEmpty then [{ source := none, kind := .write, value := current }] else u.effects

/-- The order of effects at the place; its current value alone where no hazard is possible. -/
def placeEffects (p : Place) (s : State) : List Effect :=
  match hazardPair s.ctx p with
  | none => [{ source := none, kind := .write, value := readPlace p s }]
  | some h => effectOrder (unsyncOf h s) (readPlace p s)

/-- How many of the latest effects an access under `n` may take effect before: those of the other name, up to the last
effect of its own name (R70) or the last synchronisation. -/
def overtakable (n : AccessorName) : List Effect → Nat
  | [] => 0
  | e :: l => if e.source = none ∨ e.source = some n then 0 else overtakable n l + 1

/-- The positions a read under `n` may take. -/
def readPositions (n : AccessorName) (l : List Effect) : List Nat := List.range (overtakable n l + 1)

/-- The effect right after position `j`, if any, is a write: nothing has read the value a write at `j` replaces. -/
def nextIsWrite (l : List Effect) : Nat → Bool
  | 0 => true
  | j + 1 =>
    match l[j]? with
    | some e => decide (e.kind = .write)
    | none => false

/-- The positions a write under `n` may take: a read that has returned its value keeps it. -/
def writePositions (n : AccessorName) (l : List Effect) : List Nat := (readPositions n l).filter (nextIsWrite l)

/-- The register's value at a position: the current one at position 0, else that of the effect just before. -/
def valueAt (l : List Effect) (current : Word) : Nat → Word
  | 0 => current
  | j + 1 =>
    match l[j + 1]? with
    | some e => e.value
    | none => current

/-- The access put at position `j`. -/
def insertEffect (j : Nat) (e : Effect) (l : List Effect) : List Effect := l.take j ++ e :: l.drop j

/-- One of the positions by the model's free choice (`Config.raceChoice`, log entry 8); program order only if there is
none. -/
def pickPosition (positions : List Nat) (draw : Nat) : Nat :=
  positions.getD (Config.raceChoice draw % positions.length) 0

/-- The position a transfer takes, and the state after any free choice: program order unless the transfer meets the
cross-name hazard; there `none`, the refusal, or one of the positions (R176). -/
def arbitrate (hazard : Bool) (positions : List Nat) (s : State) : Option (Nat × State) :=
  if hazard then
    match s.cfg.crossName with
    | .refuse => none
    | .race => some (pickPosition positions s.raceDraws, { s with raceDraws := s.raceDraws + 1 })
  else some (0, s)

/-- The transfer of `v` appended to the record of its pair, `unsync <- unsync ++ [(N, K)]`, and put at position `j` of the
order of effects (R176). Nothing where no hazard is possible. It is applied before the place is written. -/
def recordAccess (n : AccessorName) (k : AccessKind) (p : Place) (j : Nat) (v : Word) (s : State) : State :=
  match hazardPair s.ctx p with
  | none => s
  | some h =>
    setUnsync h
      { accesses := (unsyncOf h s).accesses ++ [(n, k)]
        effects := insertEffect j { source := some n, kind := k, value := v } (placeEffects p s) } s

/-- `ContextSync`: empties the record of unsynchronised accesses and has no other effect (20_memory.md R71, R176). -/
def contextSync (s : State) : State :=
  { s with unsyncEL2 := { accesses := [], effects := [] }, unsyncEL1 := { accesses := [], effects := [] } }

/-! ### Completion and transfers -/

/-- `pc + 4` wraps around at 2^64 (10_state.md R28). -/
def pcWraps (pc : Word) : Bool := decide (2 ^ 64 ≤ pc.toNat + 4)

/-- On completion `pc <- pc + 4`; wrap-around is refused (10_state.md R28). -/
def complete (s : State) : StepOutcome :=
  if pcWraps s.pc then .refused .pcWrap else .next { s with pc := s.pc + 4#64 }

/-- The place after a write of `v` at position `j`: `v` in program order; as it is where a write under the other name
takes effect later. -/
def writeAt (p : Place) (v : Word) (j : Nat) (s : State) : State :=
  match j with
  | 0 => writePlace p v s
  | _ + 1 => s

/-- `x[t] <- place` under name `n`, with R176's test before it and R28's advance after it. -/
def transferRead (n : AccessorName) (p : Place) (t : XReg) (s : State) : StepOutcome :=
  match arbitrate (crossNameHazard n .read p s) (readPositions n (placeEffects p s)) s with
  | none => .refused .unsynchronisedCrossNameAccess
  | some (j, s1) =>
    complete
      (writeX t (valueAt (placeEffects p s) (readPlace p s) j)
        (recordAccess n .read p j (valueAt (placeEffects p s) (readPlace p s) j) s1))

/-- `place <- x[t]` under name `n`, with R176's test before it and R28's advance after it. -/
def transferWrite (n : AccessorName) (p : Place) (t : XReg) (s : State) : StepOutcome :=
  match arbitrate (crossNameHazard n .write p s) (writePositions n (placeEffects p s)) s with
  | none => .refused .unsynchronisedCrossNameAccess
  | some (j, s1) => complete (writeAt p (readX t s) j (recordAccess n .write p j (readX t s) s1))

/-- An MRS after its chain of tests (00_scope.md R11, 60_exceptions.md R147). -/
def performRead (n : AccessorName) (word : InsnWord) (v : Verdict) (t : XReg) (s : State) : StepOutcome :=
  match v with
  | .undefined => raiseUndefined
  | .trap target => systemAccessTrap target word
  | .reach p => transferRead n p t s

/-- An MSR after its chain of tests (00_scope.md R11, 60_exceptions.md R147). -/
def performWrite (n : AccessorName) (word : InsnWord) (v : Verdict) (t : XReg) (s : State) : StepOutcome :=
  match v with
  | .undefined => raiseUndefined
  | .trap target => systemAccessTrap target word
  | .reach p => transferWrite n p t s

end Sys2Proof.Machine
end

