-- ==== Sys2Proof/Machine/Checks.lean ====
section
/-! DEFINITION. The chains of tests of the three names, each test in the order the spec writes it (00_scope.md R11,
60_exceptions.md R145). The clause labels are those of R100, R110 and R120. -/

namespace Sys2Proof.Machine

/-- The register is present: `cfg.featAIE && cfg.featAA64` (00_scope.md R2). -/
def present (g : Cfg) : Bool := g.featAIE && g.featAA64

/-- `cfg.haveEL3 && ctx.scrAIEn == 0`, the spec's `AIEoff` (40_mair2_el1_access.md R102). -/
def aieOff (g : Cfg) (c : Ctx) : Bool := g.haveEL3 && !c.scrAIEn

/-- The coarse EL2 trap bit: `HCR_EL2.TRVM` for a read, `HCR_EL2.TVM` for a write (R100, R101 clause (2b)). -/
def coarseTrapBit (k : AccessKind) (c : Ctx) : Bool :=
  match k with
  | .read => c.hcrTRVM
  | .write => c.hcrTVM

/-- The fine-grained bit `nMAIR2_EL1`: of `HFGRTR_EL2` for a read, of `HFGWTR_EL2` for a write (R100, R101 clause
(2c)). It traps when 0. -/
def fineTrapBit (k : AccessKind) (c : Ctx) : Bool :=
  match k with
  | .read => c.fgtR
  | .write => c.fgtW

/-- The fine-grained bits are in force, the spec's `FGTon` (R102). -/
def fgtOn (g : Cfg) (c : Ctx) : Bool :=
  c.el2Enabled && g.featFGT && (!g.haveEL3 || c.scrFGTEn)

/-- The name MAIR2_EL1 (R100 for a read, R101 for a write). -/
def checkMair2El1 (k : AccessKind) (g : Cfg) (c : Ctx) : Verdict :=
  if !present g then .undefined                                          -- (0)
  else match c.el with
  | .el0 => .undefined                                                   -- (1)
  | .el1 =>
    if g.haveEL3 && c.sddPrio && !c.scrAIEn then .undefined              -- (2a)
    else if c.el2Enabled && coarseTrapBit k c then .trap .el2            -- (2b)
    else if fgtOn g c && !fineTrapBit k c then .trap .el2                -- (2c)
    else if aieOff g c then
      if c.sddUndef then .undefined                                      -- (2d)
      else .trap .el3                                                    -- (2e)
    else if c.nvx = 0b111#3 then .reach .nvmem280                        -- (2f)
    else .reach .mair2El1                                                -- (2g)
  | .el2 =>
    if g.haveEL3 && c.sddPrio && !c.scrAIEn then .undefined              -- (3a)
    else if aieOff g c then
      if c.sddUndef then .undefined                                      -- (3b)
      else .trap .el3                                                    -- (3c)
    else if c.inHostEL2 then .reach .mair2El2                            -- (3d)
    else .reach .mair2El1                                                -- (3e)
  | .el3 => .reach .mair2El1                                             -- (4)

/-- The name MAIR2_EL12 (R110, R111: no condition differs between read and write). -/
def checkMair2El12 (g : Cfg) (c : Ctx) : Verdict :=
  if !present g then .undefined                                          -- (0)
  else match c.el with
  | .el0 => .undefined                                                   -- (1)
  | .el1 =>
    if c.nvx = 0b101#3 then .reach .nvmem280                             -- (2a)
    else if c.nvx.getLsbD 0 then .trap .el2                              -- (2b)
    else .undefined                                                      -- (2c)
  | .el2 =>
    if c.inHostEL2 then
      if g.haveEL3 && c.sddPrio && !c.scrAIEn then .undefined            -- (3a)
      else if aieOff g c then
        if c.sddUndef then .undefined                                    -- (3b)
        else .trap .el3                                                  -- (3c)
      else .reach .mair2El1                                              -- (3d)
    else .undefined                                                      -- (3e)
  | .el3 =>
    if c.inHostEL2 then .reach .mair2El1                                 -- (4a)
    else .undefined                                                      -- (4b)

/-- The name MAIR2_EL2 (R120, R121: no condition differs between read and write). -/
def checkMair2El2 (g : Cfg) (c : Ctx) : Verdict :=
  if !present g then .undefined                                          -- (0)
  else match c.el with
  | .el0 => .undefined                                                   -- (1)
  | .el1 =>
    if c.nvx.getLsbD 0 then .trap .el2                                   -- (2a)
    else .undefined                                                      -- (2b)
  | .el2 =>
    if g.haveEL3 && c.sddPrio && !c.scrAIEn then .undefined              -- (3a)
    else if aieOff g c then
      if c.sddUndef then .undefined                                      -- (3b)
      else .trap .el3                                                    -- (3c)
    else .reach .mair2El2                                                -- (3d)
  | .el3 => .reach .mair2El2                                             -- (4)

end Sys2Proof.Machine
end

