-- ==== Sys2Proof/Machine/Mair2El1.lean ====
section
/-! DEFINITION. The accessors of the name MAIR2_EL1 (40_mair2_el1_access.md). -/

namespace Sys2Proof.Machine

/-- `MRS <Xt>, MAIR2_EL1` (R100). -/
def execMrsMair2El1 (t : XReg) (s : State) : StepOutcome :=
  performRead .mair2El1 (encode (.mrsMair2El1 t)) (checkMair2El1 .read s.cfg s.ctx) t s

/-- `MSR MAIR2_EL1, <Xt>` (R101). -/
def execMsrMair2El1 (t : XReg) (s : State) : StepOutcome :=
  performWrite .mair2El1 (encode (.msrMair2El1 t)) (checkMair2El1 .write s.cfg s.ctx) t s

end Sys2Proof.Machine
end

