-- ==== Sys2Proof/Machine/Mair2El12.lean ====
section
/-! DEFINITION. The accessors of the name MAIR2_EL12 (41_mair2_el12_access.md). -/

namespace Sys2Proof.Machine

/-- `MRS <Xt>, MAIR2_EL12` (R110). -/
def execMrsMair2El12 (t : XReg) (s : State) : StepOutcome :=
  performRead .mair2El12 (encode (.mrsMair2El12 t)) (checkMair2El12 s.cfg s.ctx) t s

/-- `MSR MAIR2_EL12, <Xt>` (R111). -/
def execMsrMair2El12 (t : XReg) (s : State) : StepOutcome :=
  performWrite .mair2El12 (encode (.msrMair2El12 t)) (checkMair2El12 s.cfg s.ctx) t s

end Sys2Proof.Machine
end

