-- ==== Sys2Proof/Machine/Mair2El2.lean ====
section
/-! DEFINITION. The accessors of the name MAIR2_EL2 (42_mair2_el2_access.md). -/

namespace Sys2Proof.Machine

/-- `MRS <Xt>, MAIR2_EL2` (R120). -/
def execMrsMair2El2 (t : XReg) (s : State) : StepOutcome :=
  performRead .mair2El2 (encode (.mrsMair2El2 t)) (checkMair2El2 s.cfg s.ctx) t s

/-- `MSR MAIR2_EL2, <Xt>` (R121). -/
def execMsrMair2El2 (t : XReg) (s : State) : StepOutcome :=
  performWrite .mair2El2 (encode (.msrMair2El2 t)) (checkMair2El2 s.cfg s.ctx) t s

end Sys2Proof.Machine
end

