-- ==== Sys2Proof/Machine/Dispatch.lean ====
section
/-! DEFINITION. One arm per constructor of Instr, one direct call of its meaning. -/

namespace Sys2Proof.Machine

def exec (i : Instr) (s : State) : Host.Outcome State Fault Refusal :=
  match i with
  | .mrsMair2El1 t => Sys2Proof.Machine.execMrsMair2El1 t s
  | .msrMair2El1 t => Sys2Proof.Machine.execMsrMair2El1 t s
  | .mrsMair2El12 t => Sys2Proof.Machine.execMrsMair2El12 t s
  | .msrMair2El12 t => Sys2Proof.Machine.execMsrMair2El12 t s
  | .mrsMair2El2 t => Sys2Proof.Machine.execMrsMair2El2 t s
  | .msrMair2El2 t => Sys2Proof.Machine.execMsrMair2El2 t s

end Sys2Proof.Machine
end

