-- ==== Sys2Proof/Machine/Fetch.lean ====
section
/-! DEFINITION. What a step does before an instruction: the environment's `ContextSync`, fetching and decoding; and
placing a program (70_reset_and_hazards.md R181, 20_memory.md R71, R72). -/

namespace Sys2Proof.Machine

/-- The environment step that comes before the instruction at `pc`, if one is scheduled there: a `ContextSync`, after
which it is no longer to come (R71, R181). -/
def environmentStep (s : State) : Option State :=
  if s.syncPlaces.contains s.pc then
    some (contextSync { s with syncPlaces := s.syncPlaces.erase s.pc })
  else none

/-- The word at `pc`, if its four bytes stand in instruction memory (R61, R181). -/
def fetchWord (s : State) : Option InsnWord :=
  match Memory.read s.mem s.pc.toNat, Memory.read s.mem (s.pc.toNat + 1), Memory.read s.mem (s.pc.toNat + 2),
    Memory.read s.mem (s.pc.toNat + 3) with
  | some b0, some b1, some b2, some b3 => some (wordOfBytes b0 b1 b2 b3)
  | _, _, _, _ => none

/-- The refusal of a word the decoder rejects (30_encoding.md R88). -/
def refusalOfReject : DecodeReject → Refusal
  | .truncated => .fetchOutsideProgram
  | .notInScope w => .notInScope w

/-- The instruction at `pc`: a misaligned `pc` is refused (R62), as is one where no program word stands (R181) and a
word outside the six (R88). -/
def fetch (s : State) : Except Refusal Instr :=
  if s.pc.toNat % 4 ≠ 0 then .error .pcMisaligned
  else
    match fetchWord s with
    | none => .error .fetchOutsideProgram
    | some w =>
      match decode w with
      | .ok i => .ok i
      | .error r => .error (refusalOfReject r)

/-- Words laid out as bytes in ascending address order (R61). -/
def programBytes : List InsnWord → List Byte
  | [] => []
  | w :: ws => bytesOfWord w ++ programBytes ws

/-- The launch of a run (R181): the program's words at `progBase + 4k`, `pc = progBase`, the stated places of
`ContextSync` steps, nothing recorded as unsynchronised (R34); `cfg`, `ctx` and the registers as in `s`. Where the program reaches past 2^64
its byte addresses wrap around, a later byte in place of an earlier one: DESIGN CHOICE (log entry 27). -/
def launch (progBase : Word) (program : List InsnWord) (syncs : List Word) (s : State) : State :=
  contextSync
    { s with
      pc := progBase
      syncPlaces := syncs
      mem := Memory.writeBytes [] progBase (programBytes program) }

/-- The word stored where the next fetch reads: four bytes at `pc`, with `pc` moved down to a multiple of 4 (R62) and
no environment step scheduled there, so that the very next step runs the instruction. -/
def placeFetchWord (s : State) (w : InsnWord) : State :=
  { s with
    pc := s.pc &&& ~~~3#64
    syncPlaces := s.syncPlaces.filter fun a => decide (a ≠ s.pc &&& ~~~3#64)
    mem := Memory.writeBytes s.mem (s.pc &&& ~~~3#64) (bytesOfWord w) }

end Sys2Proof.Machine
end

