-- ==== Sys2Proof/Machine/Step.lean ====
section
/-! DEFINITION. One step of the machine (00_scope.md R12, 70_reset_and_hazards.md R181). -/

namespace Sys2Proof.Machine

/-- One step: an environment step where one is scheduled, otherwise the instruction at `pc`. -/
def step (s : State) : Host.Outcome State Fault Refusal :=
  match environmentStep s with
  | some s' => .next s'
  | none =>
    match fetch s with
    | .ok i => exec i s
    | .error r => .refused r

/-- `s` with the instruction whose bits are `w` stored where the next step fetches it; the bits above `nbits` are
0. -/
def State.withFetchWord (s : State) (nbits w : Nat) : State :=
  placeFetchWord s (BitVec.ofNat 32 (w % 2 ^ nbits))

end Sys2Proof.Machine
end

