-- ==== Sys2Proof/Machine/Attr.lean ====
section
/-! DEFINITION. The fields of the two registers and the meaning of an `Attr` byte (10_state.md R21; 20_memory.md R50 to
R58). Pure functions a claim may apply to the register state; no step calls them (R66, decision D15). -/

namespace Sys2Proof.Machine

/-- `Attr<n>` of a register, bits [8n+7:8n] (10_state.md R21, R22). -/
def attrField (reg : Word) (n : Nat) : Byte := reg.extractLsb' (8 * n) 8

/-- The field a translation table entry's `AttrIndx` selects, or `none`: not this register (20_memory.md R50). -/
def selectAttr (reg2 : Word) (aie : Bool) (attrIndx : BitVec 4) : Option Byte :=
  if aie && attrIndx.getLsbD 3 then some (attrField reg2 (attrIndx.extractLsb' 0 3).toNat) else none

/-- The four Device memory types (20_memory.md R53). -/
inductive DevType where
  | nGnRnE
  | nGnRE
  | nGRE
  | GRE
  deriving DecidableEq, Repr

/-- The cacheability of Normal memory; `r` and `w` are the Read- and Write-Allocate bits, true for "Allocate"
(20_memory.md R54). -/
inductive Cache where
  /-- Non-cacheable. -/
  | nc
  /-- Write-Through. -/
  | wt (transient r w : Bool)
  /-- Write-Back. -/
  | wb (transient r w : Bool)
  deriving DecidableEq, Repr

/-- A memory type (20_memory.md R51). `xs0` true: the XS attribute is set to 0; false: the sources do not say it is 0
(R57, log entry 19). -/
inductive MemType where
  | device (t : DevType) (xs0 : Bool)
  | normal (outer inner : Cache) (tagged xs0 : Bool)
  /-- The sources give the value no meaning; a translation that would use it must refuse (R58). -/
  | unpredictable
  deriving DecidableEq, Repr

/-- The Device type of `dd` (20_memory.md R53). -/
def devType (dd : BitVec 2) : DevType :=
  if dd = 0b00#2 then .nGnRnE
  else if dd = 0b01#2 then .nGnRE
  else if dd = 0b10#2 then .nGRE
  else .GRE

/-- The cacheability of a nibble `oooo` or `iiii` that is not `0b0000` (20_memory.md R54): bits [3:2] give the policy,
R is bit 1 and W bit 0. -/
def cacheOf (nibble : BitVec 4) : Cache :=
  let r := nibble.getLsbD 1
  let w := nibble.getLsbD 0
  if nibble = 0b0100#4 then .nc
  else match nibble.getLsbD 3, nibble.getLsbD 2 with
    | false, false => .wt true r w
    | false, true => .wb true r w
    | true, false => .wt false r w
    | true, true => .wb false r w

/-- Write-Back (20_memory.md R54). -/
def Cache.isWB : Cache → Bool
  | .nc => false
  | .wt _ _ _ => false
  | .wb _ _ _ => true

/-- The meaning of an `Attr` byte (20_memory.md R51). -/
def decodeAttr (a : Byte) (featXS featMTE2 : Bool) : MemType :=
  let o := a.extractLsb' 4 4
  let i := a.extractLsb' 0 4
  let dd := a.extractLsb' 2 2
  if o = 0b0000#4 then                                                             -- R52
    if a.extractLsb' 0 2 = 0b00#2 then .device (devType dd) false
    else if a.extractLsb' 0 2 = 0b01#2 then
      if featXS then .device (devType dd) true else .unpredictable
    else .unpredictable
  else if i ≠ 0b0000#4 then                                                        -- R54
    .normal (cacheOf o) (cacheOf i) false (featXS && (cacheOf o).isWB && (cacheOf i).isWB)   -- R57
  else if o = 0b0100#4 then                                                        -- R55
    if featXS then .normal .nc .nc false true else .unpredictable
  else if o = 0b1010#4 then                                                        -- R55
    if featXS then .normal (.wt false true false) (.wt false true false) false true else .unpredictable
  else if o = 0b1111#4 then                                                        -- R56
    if featMTE2 then .normal (.wb false true true) (.wb false true true) true featXS else .unpredictable
  else .unpredictable                                                              -- R56

end Sys2Proof.Machine
end

