-- ==== Sys2Proof/Machine/Syndrome.lean ====
section
/-! DEFINITION. The syndrome a system access trap would report, as 60_exceptions.md R141 gives it for orientation.
PRESUMED (K8, log entry 20): no step calls it. -/

namespace Sys2Proof.Machine

/-- The instruction-specific syndrome of a trapped MSR or MRS word (R141): Op0 [21:20], Op2 [19:17], Op1 [16:14],
CRn [13:10], Rt [9:5], CRm [4:1], Direction [0], 1 for a read. -/
def trapISS (word : InsnWord) : BitVec 25 :=
  0#3 ++ word.extractLsb' 19 2 ++ word.extractLsb' 5 3 ++ word.extractLsb' 16 3 ++ word.extractLsb' 12 4 ++
    word.extractLsb' 0 5 ++ word.extractLsb' 8 4 ++ word.extractLsb' 21 1

/-- The whole syndrome register: the code in [31:26], IL = 1 in [25], the ISS in [24:0] (R141). -/
def trapESR (code : BitVec 8) (word : InsnWord) : BitVec 32 :=
  code.extractLsb' 0 6 ++ 1#1 ++ trapISS word

end Sys2Proof.Machine
end

