-- ==== Sys2Proof/Safety.lean ====
section
/-! DEFINITION. The terms statements are written in: the conditions of the accessors in the spec's own words, what a
completed access does and leaves alone, the invariant every step keeps, and the end of a run. They are written from the
rules, apart from the machine's own functions. -/

namespace Sys2Proof.Machine

/-! ### Conditions -/

/-- The register is present (00_scope.md R2). -/
abbrev Present (s : State) : Prop := s.cfg.featAIE = true ∧ s.cfg.featAA64 = true

/-- The spec's `AIEoff` (60_exceptions.md R142). -/
abbrev AieOff (s : State) : Prop := s.cfg.haveEL3 = true ∧ s.ctx.scrAIEn = false

/-- An EL2 trap of `MRS <Xt>, MAIR2_EL1` fires at EL1: the coarse or the fine-grained one (60_exceptions.md R142). -/
abbrev El2TrapsRead (s : State) : Prop :=
  s.ctx.el2Enabled = true ∧
    (s.ctx.hcrTRVM = true ∨
      (s.cfg.featFGT = true ∧ (s.cfg.haveEL3 = false ∨ s.ctx.scrFGTEn = true) ∧ s.ctx.fgtR = false))

/-- An EL2 trap of `MSR MAIR2_EL1, <Xt>` fires at EL1 (60_exceptions.md R142). -/
abbrev El2TrapsWrite (s : State) : Prop :=
  s.ctx.el2Enabled = true ∧
    (s.ctx.hcrTVM = true ∨
      (s.cfg.featFGT = true ∧ (s.cfg.haveEL3 = false ∨ s.ctx.scrFGTEn = true) ∧ s.ctx.fgtW = false))

/-- The EL2 trap of the direction. -/
def El2Traps (k : AccessKind) (s : State) : Prop :=
  match k with
  | .read => El2TrapsRead s
  | .write => El2TrapsWrite s

/-- Bit 0 of `EffectiveHCR_EL2_NVx()` is 1: the pattern `'xx1'` (00_scope.md R9). -/
abbrev NvxBit0 (s : State) : Prop := s.ctx.nvx.getLsbD 0 = true

/-- At EL2 with EL2 in host mode: two names reach `MAIR2_EL2` (42_mair2_el2_access.md R123). -/
abbrev HostAtEl2 (s : State) : Prop := s.ctx.el = .el2 ∧ s.ctx.inHostEL2 = true

/-- At EL3 with EL2 in host mode: two names reach `MAIR2_EL1` (70_reset_and_hazards.md R176). -/
abbrev HostAtEl3 (s : State) : Prop := s.ctx.el = .el3 ∧ s.ctx.inHostEL2 = true

/-- `pc + 4` does not wrap around (10_state.md R28). -/
abbrev PcHasRoom (s : State) : Prop := s.pc.toNat + 4 < 2 ^ 64

/-- Some recorded access under another name conflicts with an access under `n` of kind `k` (R176). -/
abbrev CrossNameConflict (l : List (AccessorName × AccessKind)) (n : AccessorName) (k : AccessKind) : Prop :=
  ∃ e ∈ l, e.1 ≠ n ∧ (k = .write ∨ e.2 = .write)

/-- The access under `n` of kind `k` meets no unsynchronised access under another name (R176). -/
abbrev NoHazard (n : AccessorName) (k : AccessKind) (s : State) : Prop :=
  (HostAtEl2 s → n ≠ .mair2El12 → ¬ CrossNameConflict s.unsyncEL2.accesses n k) ∧
    (HostAtEl3 s → n ≠ .mair2El2 → ¬ CrossNameConflict s.unsyncEL1.accesses n k)

/-! ### The causes of the exceptions (60_exceptions.md R142) -/

/-- The rows of R142 whose exception is Undefined. -/
def UndefinedCause (i : Instr) (s : State) : Prop :=
  ¬ Present s ∨ s.ctx.el = .el0 ∨
    match i.name, s.ctx.el with
    | .mair2El1, .el1 => AieOff s ∧ (s.ctx.sddPrio = true ∨ (s.ctx.sddUndef = true ∧ ¬ El2Traps i.kind s))
    | .mair2El1, .el2 => AieOff s ∧ (s.ctx.sddPrio = true ∨ s.ctx.sddUndef = true)
    | .mair2El12, .el1 => ¬ NvxBit0 s
    | .mair2El12, .el2 => s.ctx.inHostEL2 = false ∨ (AieOff s ∧ (s.ctx.sddPrio = true ∨ s.ctx.sddUndef = true))
    | .mair2El12, .el3 => s.ctx.inHostEL2 = false
    | .mair2El2, .el1 => ¬ NvxBit0 s
    | .mair2El2, .el2 => AieOff s ∧ (s.ctx.sddPrio = true ∨ s.ctx.sddUndef = true)
    | _, _ => False

/-- The rows of R142 whose exception is the trap to EL2. -/
def TrapEl2Cause (i : Instr) (s : State) : Prop :=
  Present s ∧
    match i.name, s.ctx.el with
    | .mair2El1, .el1 => El2Traps i.kind s ∧ ¬ (AieOff s ∧ s.ctx.sddPrio = true)
    | .mair2El12, .el1 => NvxBit0 s ∧ s.ctx.nvx ≠ 0b101#3
    | .mair2El2, .el1 => NvxBit0 s
    | _, _ => False

/-- The rows of R142 whose exception is the trap to EL3. -/
def TrapEl3Cause (i : Instr) (s : State) : Prop :=
  Present s ∧ AieOff s ∧ s.ctx.sddPrio = false ∧ s.ctx.sddUndef = false ∧
    match i.name, s.ctx.el with
    | .mair2El1, .el1 => ¬ El2Traps i.kind s
    | .mair2El1, .el2 => True
    | .mair2El12, .el2 => s.ctx.inHostEL2 = true
    | .mair2El2, .el2 => True
    | _, _ => False

/-! ### What a completed access does -/

/-- Every general register reads as before. -/
def SameRegs (s s' : State) : Prop := ∀ r, readX r s' = readX r s

/-- The configuration, the context, the environment steps still to come and every byte of instruction memory are as
before. -/
def SameSurroundings (s s' : State) : Prop :=
  s'.cfg = s.cfg ∧ s'.ctx = s.ctx ∧ s'.syncPlaces = s.syncPlaces ∧
    ∀ a, Memory.read s'.mem a = Memory.read s.mem a

/-- `MAIR2_EL1`, `MAIR2_EL2` and `NVMem[0x280]` are as before. -/
def SamePlaces (s s' : State) : Prop :=
  s'.mair2El1 = s.mair2El1 ∧ s'.mair2El2 = s.mair2El2 ∧ s'.nvmem280 = s.nvmem280

/-- Both records of unsynchronised accesses are as before, and no free choice was taken. -/
def SameRecords (s s' : State) : Prop :=
  s'.unsyncEL2 = s.unsyncEL2 ∧ s'.unsyncEL1 = s.unsyncEL1 ∧ s'.raceDraws = s.raceDraws

/-- A completed read: `Xt` holds `v` (for number 31 the value is discarded), every other register, every place and the
surroundings are as before, and `pc` is advanced (R100, R110, R120; R27, R28). -/
def ReadDone (t : XReg) (v : Word) (s s' : State) : Prop :=
  readX t s' = (if t = .xzr then 0#64 else v) ∧ (∀ r, r ≠ t → readX r s' = readX r s) ∧
    s'.pc = s.pc + 4#64 ∧ SamePlaces s s' ∧ SameSurroundings s s'

/-- All 64 bits of the one place are `v`, the other two places are as before. -/
def PlaceBecomes (p : Place) (v : Word) (s s' : State) : Prop :=
  match p with
  | .mair2El1 => s'.mair2El1 = v ∧ s'.mair2El2 = s.mair2El2 ∧ s'.nvmem280 = s.nvmem280
  | .mair2El2 => s'.mair2El2 = v ∧ s'.mair2El1 = s.mair2El1 ∧ s'.nvmem280 = s.nvmem280
  | .nvmem280 => s'.nvmem280 = v ∧ s'.mair2El1 = s.mair2El1 ∧ s'.mair2El2 = s.mair2El2

/-- A completed write: the place holds `v`, every general register, the other places and the surroundings are as
before, and `pc` is advanced (R101, R111, R121). -/
def WriteDone (p : Place) (v : Word) (s s' : State) : Prop :=
  PlaceBecomes p v s s' ∧ SameRegs s s' ∧ s'.pc = s.pc + 4#64 ∧ SameSurroundings s s'

/-- The order of effects an access finds: `l`, or the current value alone, as the value at the last synchronisation,
where nothing is recorded (R176). -/
def effectsFound (l : List Effect) (current : Word) : List Effect :=
  if l = [] then [{ source := none, kind := .write, value := current }] else l

/-- The record after an access under name `n` of kind `k` and value `v` in program order: appended to the list of
accesses, and the latest of the effects (R176). -/
def ExtendedInOrder (n : AccessorName) (k : AccessKind) (v current : Word) (u u' : Unsync) : Prop :=
  u'.accesses = u.accesses ++ [(n, k)] ∧
    u'.effects = { source := some n, kind := k, value := v } :: effectsFound u.effects current

/-- The records after a completed access under name `n` of kind `k` and value `v` that met no hazard: the record of
`MAIR2_EL2` extended at EL2 in host mode when the access reached `MAIR2_EL2`, that of `MAIR2_EL1` at EL3 in host mode when
it reached `MAIR2_EL1`, both as before elsewhere (R176). -/
def RecordsExtended (n : AccessorName) (k : AccessKind) (v : Word) (s s' : State) : Prop :=
  (HostAtEl2 s ∧ n ≠ .mair2El12 →
      ExtendedInOrder n k v s.mair2El2 s.unsyncEL2 s'.unsyncEL2 ∧ s'.unsyncEL1 = s.unsyncEL1) ∧
    (HostAtEl3 s ∧ n ≠ .mair2El2 →
      ExtendedInOrder n k v s.mair2El1 s.unsyncEL1 s'.unsyncEL1 ∧ s'.unsyncEL2 = s.unsyncEL2) ∧
    (¬ (HostAtEl2 s ∧ n ≠ .mair2El12) → ¬ (HostAtEl3 s ∧ n ≠ .mair2El2) →
      s'.unsyncEL2 = s.unsyncEL2 ∧ s'.unsyncEL1 = s.unsyncEL1) ∧
    s'.raceDraws = s.raceDraws

/-- What a completed access of `i`, raced or not, may change of the records, and when it takes a free choice: a record
only where the hazard is possible (R176), a choice exactly when it meets the hazard. -/
def RecordsFrame (i : Instr) (s s' : State) : Prop :=
  (s'.unsyncEL2 ≠ s.unsyncEL2 → HostAtEl2 s ∧ i.name ≠ .mair2El12) ∧
    (s'.unsyncEL1 ≠ s.unsyncEL1 → HostAtEl3 s ∧ i.name ≠ .mair2El2) ∧
    (NoHazard i.name i.kind s → s'.raceDraws = s.raceDraws) ∧
    (¬ NoHazard i.name i.kind s → s.cfg.crossName = .race ∧ s'.raceDraws = s.raceDraws + 1)

/-- An access under name `n` of kind `k` and value `v` takes effect right after `older` and before `newer`, all of which
were made under the other name since the last synchronisation (R176; R70: never before an access of its own name). -/
def TakesEffectBetween (n : AccessorName) (k : AccessKind) (v : Word) (newer older : List Effect) (u u' : Unsync) :
    Prop :=
  u.effects = newer ++ older ∧ older ≠ [] ∧ (∀ e ∈ newer, e.source ≠ none ∧ e.source ≠ some n) ∧
    u'.accesses = u.accesses ++ [(n, k)] ∧
    u'.effects = newer ++ { source := some n, kind := k, value := v } :: older

/-- A raced read returns the register's value where it takes effect, which is the value at the last synchronisation or
one written since (R176). -/
def RacedRead (n : AccessorName) (v : Word) (u u' : Unsync) : Prop :=
  (∃ newer older, TakesEffectBetween n .read v newer older u u' ∧ older.head?.map (·.value) = some v) ∧
    ∃ e ∈ u.effects, e.kind = .write ∧ e.value = v

/-- A raced write of `v` to a register that held `current` takes effect where no returned value depends on it, and leaves
`final` in the register: `v` if it takes effect last, else the value of a later write under the other name, which is the
one the register held (R176). -/
def RacedWrite (n : AccessorName) (v current final : Word) (u u' : Unsync) : Prop :=
  (∃ newer older, TakesEffectBetween n .write v newer older u u' ∧
      (∀ e, newer.getLast? = some e → e.kind = .write) ∧ final = if newer = [] then v else current) ∧
    (final = v ∨ ∃ e ∈ u.effects, e.kind = .write ∧ e.source ≠ none ∧ e.source ≠ some n ∧ e.value = final)

/-- What a read under the name MAIR2_EL1 returns once every test has passed (10_state.md section 6, R100). -/
def mair2El1NameValue (s : State) : Word :=
  match s.ctx.el with
  | .el1 => if s.ctx.nvx = 0b111#3 then s.nvmem280 else s.mair2El1
  | .el2 => if s.ctx.inHostEL2 = true then s.mair2El2 else s.mair2El1
  | _ => s.mair2El1

/-- What a write under the name MAIR2_EL1 replaces once every test has passed (10_state.md section 6, R101). -/
def mair2El1NamePlace (s : State) : Place :=
  match s.ctx.el with
  | .el1 => if s.ctx.nvx = 0b111#3 then .nvmem280 else .mair2El1
  | .el2 => if s.ctx.inHostEL2 = true then .mair2El2 else .mair2El1
  | _ => .mair2El1

/-- An access under the name MAIR2_EL12 completes (R110, R111 clauses (2a), (3d), (4a)). -/
abbrev Mair2El12Reaches (s : State) : Prop :=
  (s.ctx.el = .el1 ∧ s.ctx.nvx = 0b101#3) ∨ (HostAtEl2 s ∧ ¬ AieOff s) ∨ HostAtEl3 s

/-- An access under the name MAIR2_EL2 completes (R120, R121 clauses (3d), (4)). -/
abbrev Mair2El2Reaches (s : State) : Prop := (s.ctx.el = .el2 ∧ ¬ AieOff s) ∨ s.ctx.el = .el3

/-- `MAIR2_EL2` is accessed from EL3 while EL2 is not implemented (10_state.md R24). -/
abbrev Res0Access (s : State) : Prop := s.ctx.el = .el3 ∧ s.cfg.haveEL2 = false

/-- One of the four cases in which an accessor moves data to or from memory (49_families_not_in_sources.md R134). -/
abbrev NvmemCase (i : Instr) (s : State) : Prop :=
  s.ctx.el = .el1 ∧
    ((i.name = .mair2El1 ∧ s.ctx.nvx = 0b111#3) ∨ (i.name = .mair2El12 ∧ s.ctx.nvx = 0b101#3))

/-- An outcome with its next state, if any, changed by `f`. -/
def mapNext (f : State → State) (o : StepOutcome) : StepOutcome :=
  match o with
  | .next s => .next (f s)
  | .fault r => .fault r
  | .refused r => .refused r

/-- The fields of a register-move word (30_encoding.md R85). -/
def CarriesTuple (w : InsnWord) (l : BitVec 1) (op0 : BitVec 2) (op1 : BitVec 3) (crn crm : BitVec 4)
    (op2 : BitVec 3) (rt : BitVec 5) : Prop :=
  w.extractLsb' 22 10 = 0b1101010100#10 ∧ w.extractLsb' 21 1 = l ∧ w.extractLsb' 19 2 = op0 ∧
    w.extractLsb' 16 3 = op1 ∧ w.extractLsb' 12 4 = crn ∧ w.extractLsb' 8 4 = crm ∧ w.extractLsb' 5 3 = op2 ∧
    w.extractLsb' 0 5 = rt

/-! ### The invariant of every step -/

/-- An order of effects, the latest first: it ends in the value at the last synchronisation, and each read has returned
the value of the effect just before it. -/
def EffectsLinked : List Effect → Prop
  | [] => False
  | [e] => e.source = none ∧ e.kind = .write
  | e :: f :: l => e.source ≠ none ∧ (e.kind = .read → e.value = f.value) ∧ EffectsLinked (f :: l)

/-- The directions of the accesses under name `n`, in the order in which they took effect. -/
def kindsInEffect (n : AccessorName) (l : List Effect) : List AccessKind :=
  ((l.filter fun e => decide (e.source = some n)).map (·.kind)).reverse

/-- The directions of the accesses under name `n`, in program order. -/
def kindsInProgram (n : AccessorName) (l : List (AccessorName × AccessKind)) : List AccessKind :=
  (l.filter fun e => decide (e.1 = n)).map (·.2)

/-- What a record of unsynchronised accesses keeps: it is non-empty only where the hazard is possible and holds only the
names of its pair; the effects are linked, the latest value is the register's, and each name's accesses took effect in
program order (20_memory.md R70); and under the spec's refusal no two recorded accesses conflict (R34, R176). -/
def RecordInv (mode : CrossNameMode) (possible : Prop) (names : List AccessorName) (u : Unsync) (current : Word) :
    Prop :=
  (u.accesses ≠ [] → possible) ∧
    (∀ e ∈ u.accesses, e.1 ∈ names) ∧
    (u.accesses = [] → u.effects = []) ∧
    (u.accesses ≠ [] → EffectsLinked u.effects ∧ u.effects.head?.map (·.value) = some current ∧
      ∀ n, kindsInEffect n u.effects = kindsInProgram n u.accesses) ∧
    (mode = .refuse → ∀ e ∈ u.accesses, ∀ f ∈ u.accesses, e.1 ≠ f.1 → e.2 = .read ∧ f.2 = .read)

/-- The invariant every step keeps: instruction memory in canonical form, `pc` a multiple of 4 (R28), both records in
order. -/
def Inv (s : State) : Prop :=
  Memory.wf s.mem = true ∧ s.pc.toNat % 4 = 0 ∧
    RecordInv s.cfg.crossName (HostAtEl2 s) [.mair2El1, .mair2El2] s.unsyncEL2 s.mair2El2 ∧
    RecordInv s.cfg.crossName (HostAtEl3 s) [.mair2El1, .mair2El12] s.unsyncEL1 s.mair2El1

/-! ### Runs -/

/-- The run of `program` from `progBase` ends successfully in `k` steps at `s'`: no fault, no refusal, and `pc` just
past the program (70_reset_and_hazards.md R181). The two are compared as 64-bit addresses: for a program that reaches past
2^64, on which the spec is silent, modulo 2^64 (DESIGN CHOICE, log entry 27), so that a program of 2^62 words meets this at
`k = 0`. -/
def EndsSuccessfully (k : Nat) (progBase : Word) (program : List InsnWord) (syncs : List Word) (s s' : State) : Prop :=
  Host.Core.run Sys2Proof.core k (launch progBase program syncs s) = .next s' ∧
    s'.pc = progBase + BitVec.ofNat 64 (4 * program.length)

end Sys2Proof.Machine
end

