-- ==== Sys2Proof/Certificates/Slice0/Obligations.lean ====
section
/-! DEFINITION. The statements for the provers, from the numbered rules of spec/. -/

open Sys2Proof Sys2Proof.Machine

/-! ### Encoding -/

/-- 30_encoding.md R85 to R87: no bit of an encoding is dropped. -/
def Obligations.DecodeOfEncodeIsIdentity : Prop :=
  ∀ i : Instr, i.WellFormed → decode (encode i) = .ok i

/-- 30_encoding.md R85 to R87: each word has one meaning, and decoding yields well-formed instructions only. -/
def Obligations.EncodeOfDecodeIsIdentity : Prop :=
  ∀ (w : InsnWord) (i : Instr), decode w = .ok i → encode i = w ∧ i.WellFormed

/-- 30_encoding.md R86: "A word `w` is instruction `i` exactly when `w & mask == match_i`", with the operand of R87;
any other word is rejected with the word (R88). -/
def Obligations.MaskAndMatchDecideTheInstruction : Prop :=
  ∀ (w : InsnWord) (t : XReg),
    (decode w = .ok (.mrsMair2El1 t) ↔ w &&& 0xFFFFFFE0#32 = 0xD538A220#32 ∧
      t = if w.extractLsb' 0 5 = 31#5 then .xzr else .x (w.extractLsb' 0 5).toNat) ∧
    (decode w = .ok (.msrMair2El1 t) ↔ w &&& 0xFFFFFFE0#32 = 0xD518A220#32 ∧
      t = if w.extractLsb' 0 5 = 31#5 then .xzr else .x (w.extractLsb' 0 5).toNat) ∧
    (decode w = .ok (.mrsMair2El12 t) ↔ w &&& 0xFFFFFFE0#32 = 0xD53DA220#32 ∧
      t = if w.extractLsb' 0 5 = 31#5 then .xzr else .x (w.extractLsb' 0 5).toNat) ∧
    (decode w = .ok (.msrMair2El12 t) ↔ w &&& 0xFFFFFFE0#32 = 0xD51DA220#32 ∧
      t = if w.extractLsb' 0 5 = 31#5 then .xzr else .x (w.extractLsb' 0 5).toNat) ∧
    (decode w = .ok (.mrsMair2El2 t) ↔ w &&& 0xFFFFFFE0#32 = 0xD53CA120#32 ∧
      t = if w.extractLsb' 0 5 = 31#5 then .xzr else .x (w.extractLsb' 0 5).toNat) ∧
    (decode w = .ok (.msrMair2El2 t) ↔ w &&& 0xFFFFFFE0#32 = 0xD51CA120#32 ∧
      t = if w.extractLsb' 0 5 = 31#5 then .xzr else .x (w.extractLsb' 0 5).toNat) ∧
    ((∀ i, decode w ≠ .ok i) ↔ decode w = .error (.notInScope w))

/-- 30_encoding.md R82 to R84, in the word layout of R85: the tuple of each name, the same for its MRS and its MSR. -/
def Obligations.EncodedWordCarriesTheTuple : Prop :=
  ∀ t : XReg, t.WellFormed →
    CarriesTuple (encode (.mrsMair2El1 t)) 1#1 0b11#2 0b000#3 0b1010#4 0b0010#4 0b001#3 t.toField ∧
    CarriesTuple (encode (.msrMair2El1 t)) 0#1 0b11#2 0b000#3 0b1010#4 0b0010#4 0b001#3 t.toField ∧
    CarriesTuple (encode (.mrsMair2El12 t)) 1#1 0b11#2 0b101#3 0b1010#4 0b0010#4 0b001#3 t.toField ∧
    CarriesTuple (encode (.msrMair2El12 t)) 0#1 0b11#2 0b101#3 0b1010#4 0b0010#4 0b001#3 t.toField ∧
    CarriesTuple (encode (.mrsMair2El2 t)) 1#1 0b11#2 0b100#3 0b1010#4 0b0001#4 0b001#3 t.toField ∧
    CarriesTuple (encode (.msrMair2El2 t)) 0#1 0b11#2 0b100#3 0b1010#4 0b0001#4 0b001#3 t.toField

/-- 95_test_vectors.md section 2.1: words written out from the spec's encodings, and near misses. -/
def Obligations.SpecWordsDecode : Prop :=
  decode 0xD538A225#32 = .ok (.mrsMair2El1 (.x 5)) ∧ decode 0xD518A23F#32 = .ok (.msrMair2El1 .xzr) ∧
    decode 0xD53DA220#32 = .ok (.mrsMair2El12 (.x 0)) ∧ decode 0xD51DA229#32 = .ok (.msrMair2El12 (.x 9)) ∧
    decode 0xD53CA13D#32 = .ok (.mrsMair2El2 (.x 29)) ∧ decode 0xD51CA120#32 = .ok (.msrMair2El2 (.x 0)) ∧
    decode 0xD538A200#32 = .error (.notInScope 0xD538A200#32) ∧
    decode 0xD53CA220#32 = .error (.notInScope 0xD53CA220#32)

/-! ### Steps -/

/-- 70_reset_and_hazards.md R181: a step runs the instruction its bytes decode to; `exec` itself advances `pc`. -/
def Obligations.StepRunsTheDecodedInstruction : Prop :=
  ∀ (s : State) (i : Instr) (b0 b1 b2 b3 : Byte),
    s.pc ∉ s.syncPlaces → s.pc.toNat % 4 = 0 →
    Memory.read s.mem s.pc.toNat = some b0 → Memory.read s.mem (s.pc.toNat + 1) = some b1 →
    Memory.read s.mem (s.pc.toNat + 2) = some b2 → Memory.read s.mem (s.pc.toNat + 3) = some b3 →
    i.WellFormed → decode (b3 ++ b2 ++ b1 ++ b0) = .ok i →
    step s = exec i s

/-- 20_memory.md R71, 70_reset_and_hazards.md R176: a `ContextSync` empties the records and has no other effect. That
it is an environment step scheduled by `pc` is the model's (log entry 10). -/
def Obligations.ContextSyncStepEmptiesTheRecords : Prop :=
  ∀ s : State, s.pc ∈ s.syncPlaces →
    ∃ s', step s = .next s' ∧ s'.unsyncEL2.accesses = [] ∧ s'.unsyncEL2.effects = [] ∧
      s'.unsyncEL1.accesses = [] ∧ s'.unsyncEL1.effects = [] ∧ s'.syncPlaces = s.syncPlaces.erase s.pc ∧
      s'.pc = s.pc ∧ SameRegs s s' ∧ SamePlaces s s' ∧ s'.cfg = s.cfg ∧ s'.ctx = s.ctx ∧
      s'.raceDraws = s.raceDraws ∧ ∀ a, Memory.read s'.mem a = Memory.read s.mem a

/-- A misaligned `pc` (20_memory.md R62), a `pc` where a byte has no value, and a word outside the six (30_encoding.md R88)
are refused, each by its own name. The second is the model's DESIGN CHOICE (log entry 5): the spec places the program
and says nothing of a fetch elsewhere. The byte order of the word is log entry 17. -/
def Obligations.StepRefusesWhatIsNoInstruction : Prop :=
  ∀ s : State, s.pc ∉ s.syncPlaces →
    (s.pc.toNat % 4 ≠ 0 → step s = .refused .pcMisaligned) ∧
    (s.pc.toNat % 4 = 0 → (∃ k, k < 4 ∧ Memory.read s.mem (s.pc.toNat + k) = none) →
      step s = .refused .fetchOutsideProgram) ∧
    (∀ b0 b1 b2 b3, s.pc.toNat % 4 = 0 →
      Memory.read s.mem s.pc.toNat = some b0 → Memory.read s.mem (s.pc.toNat + 1) = some b1 →
      Memory.read s.mem (s.pc.toNat + 2) = some b2 → Memory.read s.mem (s.pc.toNat + 3) = some b3 →
      (∀ i, decode (b3 ++ b2 ++ b1 ++ b0) ≠ .ok i) →
      step s = .refused (.notInScope (b3 ++ b2 ++ b1 ++ b0)))

/-- 70_reset_and_hazards.md R181, 20_memory.md R61: a word placed where the next fetch reads is the one the next step
runs, whatever stood there and whatever was scheduled. -/
def Obligations.PlacedWordIsRunNext : Prop :=
  ∀ (s : State) (w : InsnWord) (i : Instr), decode w = .ok i →
    step (s.withFetchWord 32 w.toNat) = exec i (s.withFetchWord 32 w.toNat) ∧
    (s.pc.toNat % 4 = 0 → (s.withFetchWord 32 w.toNat).pc = s.pc) ∧
    SameRegs s (s.withFetchWord 32 w.toNat) ∧ SamePlaces s (s.withFetchWord 32 w.toNat)

/-! ### Exceptions and refusals -/

/-- 60_exceptions.md R142: every cause of every exception of the six, and no other exception. -/
def Obligations.FaultCausesOfEveryAccessor : Prop :=
  ∀ (i : Instr) (s : State),
    (exec i s = .fault .undefined ↔ UndefinedCause i s) ∧
    (exec i s = .fault (.sysTrap .el2 0x18#8 (encode i)) ↔ TrapEl2Cause i s) ∧
    (exec i s = .fault (.sysTrap .el3 0x18#8 (encode i)) ↔ TrapEl3Cause i s) ∧
    ∀ f, exec i s = .fault f → f = .undefined ∨ f = .sysTrap .el2 0x18#8 (encode i) ∨
      f = .sysTrap .el3 0x18#8 (encode i)

/-- 60_exceptions.md R143: from the word a trap records, the name, the direction and `Rt` are recovered. -/
def Obligations.TrapRecordsTheTrappedInstruction : Prop :=
  ∀ (i : Instr) (s : State) (g : TrapTarget) (c : BitVec 8) (w : InsnWord), i.WellFormed →
    exec i s = .fault (.sysTrap g c w) → c = 0x18#8 ∧ decode w = .ok i

/-- An accessor is refused for two reasons only: the cross-name hazard under the spec's treatment of it (R176), and
the wrap-around of `pc + 4` at 2^64 (10_state.md R28). -/
def Obligations.RefusalCausesOfEveryAccessor : Prop :=
  ∀ (i : Instr) (s : State) (r : Refusal), exec i s = .refused r →
    (r = .pcWrap ∧ ¬ PcHasRoom s) ∨
    (r = .unsynchronisedCrossNameAccess ∧ s.cfg.crossName = .refuse ∧
      ((HostAtEl2 s ∧ i.name ≠ .mair2El12 ∧ CrossNameConflict s.unsyncEL2.accesses i.name i.kind) ∨
        (HostAtEl3 s ∧ i.name ≠ .mair2El2 ∧ CrossNameConflict s.unsyncEL1.accesses i.name i.kind)))

/-- 10_state.md R28: wrap-around of `pc + 4` at 2^64 is refused, whatever would otherwise complete, in program order or
raced. -/
def Obligations.WrapAroundOfPcIsRefused : Prop :=
  ∀ (i : Instr) (s : State), ¬ PcHasRoom s → ¬ UndefinedCause i s → ¬ TrapEl2Cause i s → ¬ TrapEl3Cause i s →
    s.cfg.crossName = .race ∨ NoHazard i.name i.kind s → exec i s = .refused .pcWrap

/-! ### The six accessors: where each raises an exception, and where and how it completes

These clauses are choices. The advance of `pc` is R28's (log entry 13); the transfers with `NVMem[0x280]` complete by
decision D6 (R60, log entry 14); the premise on the hazard is R176's, and the order of effects that RecordsExtended gives
the model's own (log entry 7; for the pair at EL3 log entry 9); the values under `res0Mode = RazWi` are decision D13's
(R24, log entry 15). -/

/-- 40_mair2_el1_access.md R100: clauses (0) to (2e), (3a) to (3c); and (2f), (2g), (3d), (3e), (4). -/
def Obligations.MrsMair2El1RaisesOrCompletes : Prop :=
  ∀ (t : XReg) (s : State), t.WellFormed →
    decode (0xD538A220#32 ||| t.toField.setWidth 32) = .ok (.mrsMair2El1 t) ∧
    (UndefinedCause (.mrsMair2El1 t) s → exec (.mrsMair2El1 t) s = .fault .undefined) ∧
    (TrapEl2Cause (.mrsMair2El1 t) s →
      exec (.mrsMair2El1 t) s = .fault (.sysTrap .el2 0x18#8 (0xD538A220#32 ||| t.toField.setWidth 32))) ∧
    (TrapEl3Cause (.mrsMair2El1 t) s →
      exec (.mrsMair2El1 t) s = .fault (.sysTrap .el3 0x18#8 (0xD538A220#32 ||| t.toField.setWidth 32))) ∧
    (Present s → PcHasRoom s → s.ctx.el ≠ .el0 →
      (s.ctx.el = .el1 → ¬ El2TrapsRead s) → (s.ctx.el ≠ .el3 → ¬ AieOff s) →
      NoHazard .mair2El1 .read s →
      ∃ s', exec (.mrsMair2El1 t) s = .next s' ∧ ReadDone t (mair2El1NameValue s) s s' ∧
        RecordsExtended .mair2El1 .read (mair2El1NameValue s) s s')

/-- 40_mair2_el1_access.md R101: clauses (0) to (2e), (3a) to (3c); and (2f), (2g), (3d), (3e), (4). -/
def Obligations.MsrMair2El1RaisesOrCompletes : Prop :=
  ∀ (t : XReg) (s : State), t.WellFormed →
    decode (0xD518A220#32 ||| t.toField.setWidth 32) = .ok (.msrMair2El1 t) ∧
    (UndefinedCause (.msrMair2El1 t) s → exec (.msrMair2El1 t) s = .fault .undefined) ∧
    (TrapEl2Cause (.msrMair2El1 t) s →
      exec (.msrMair2El1 t) s = .fault (.sysTrap .el2 0x18#8 (0xD518A220#32 ||| t.toField.setWidth 32))) ∧
    (TrapEl3Cause (.msrMair2El1 t) s →
      exec (.msrMair2El1 t) s = .fault (.sysTrap .el3 0x18#8 (0xD518A220#32 ||| t.toField.setWidth 32))) ∧
    (Present s → PcHasRoom s → s.ctx.el ≠ .el0 →
      (s.ctx.el = .el1 → ¬ El2TrapsWrite s) → (s.ctx.el ≠ .el3 → ¬ AieOff s) →
      NoHazard .mair2El1 .write s →
      ∃ s', exec (.msrMair2El1 t) s = .next s' ∧ WriteDone (mair2El1NamePlace s) (readX t s) s s' ∧
        RecordsExtended .mair2El1 .write (readX t s) s s')

/-- 41_mair2_el12_access.md R110: clauses (0) to (2c) but (2a), (3a) to (3c), (3e), (4b); and (2a), (3d), (4a). Clause
(0) is the spec's own choice for this name (decision D18, log entry 18). -/
def Obligations.MrsMair2El12RaisesOrCompletes : Prop :=
  ∀ (t : XReg) (s : State), t.WellFormed →
    decode (0xD53DA220#32 ||| t.toField.setWidth 32) = .ok (.mrsMair2El12 t) ∧
    (UndefinedCause (.mrsMair2El12 t) s → exec (.mrsMair2El12 t) s = .fault .undefined) ∧
    (TrapEl2Cause (.mrsMair2El12 t) s →
      exec (.mrsMair2El12 t) s = .fault (.sysTrap .el2 0x18#8 (0xD53DA220#32 ||| t.toField.setWidth 32))) ∧
    (TrapEl3Cause (.mrsMair2El12 t) s →
      exec (.mrsMair2El12 t) s = .fault (.sysTrap .el3 0x18#8 (0xD53DA220#32 ||| t.toField.setWidth 32))) ∧
    (Present s → PcHasRoom s → Mair2El12Reaches s → NoHazard .mair2El12 .read s →
      ∃ s', exec (.mrsMair2El12 t) s = .next s' ∧
        ReadDone t (if s.ctx.el = .el1 then s.nvmem280 else s.mair2El1) s s' ∧
        RecordsExtended .mair2El12 .read s.mair2El1 s s')

/-- 41_mair2_el12_access.md R111: the clauses of R110. Clause (0) is the spec's own choice for this name (decision D18, log
entry 18). -/
def Obligations.MsrMair2El12RaisesOrCompletes : Prop :=
  ∀ (t : XReg) (s : State), t.WellFormed →
    decode (0xD51DA220#32 ||| t.toField.setWidth 32) = .ok (.msrMair2El12 t) ∧
    (UndefinedCause (.msrMair2El12 t) s → exec (.msrMair2El12 t) s = .fault .undefined) ∧
    (TrapEl2Cause (.msrMair2El12 t) s →
      exec (.msrMair2El12 t) s = .fault (.sysTrap .el2 0x18#8 (0xD51DA220#32 ||| t.toField.setWidth 32))) ∧
    (TrapEl3Cause (.msrMair2El12 t) s →
      exec (.msrMair2El12 t) s = .fault (.sysTrap .el3 0x18#8 (0xD51DA220#32 ||| t.toField.setWidth 32))) ∧
    (Present s → PcHasRoom s → Mair2El12Reaches s → NoHazard .mair2El12 .write s →
      ∃ s', exec (.msrMair2El12 t) s = .next s' ∧
        WriteDone (if s.ctx.el = .el1 then .nvmem280 else .mair2El1) (readX t s) s s' ∧
        RecordsExtended .mair2El12 .write (readX t s) s s')

/-- 42_mair2_el2_access.md R120: clauses (0) to (3c); and (3d), (4), its corner case (iii) included: the register is RES0
from EL3 without EL2 (R24). -/
def Obligations.MrsMair2El2RaisesOrCompletes : Prop :=
  ∀ (t : XReg) (s : State), t.WellFormed →
    decode (0xD53CA120#32 ||| t.toField.setWidth 32) = .ok (.mrsMair2El2 t) ∧
    (UndefinedCause (.mrsMair2El2 t) s → exec (.mrsMair2El2 t) s = .fault .undefined) ∧
    (TrapEl2Cause (.mrsMair2El2 t) s →
      exec (.mrsMair2El2 t) s = .fault (.sysTrap .el2 0x18#8 (0xD53CA120#32 ||| t.toField.setWidth 32))) ∧
    (TrapEl3Cause (.mrsMair2El2 t) s →
      exec (.mrsMair2El2 t) s = .fault (.sysTrap .el3 0x18#8 (0xD53CA120#32 ||| t.toField.setWidth 32))) ∧
    (Present s → PcHasRoom s → Mair2El2Reaches s → NoHazard .mair2El2 .read s →
      ∃ s', exec (.mrsMair2El2 t) s = .next s' ∧
        ReadDone t (if Res0Access s ∧ s.cfg.res0Mode = .razWi then 0#64 else s.mair2El2) s s' ∧
        RecordsExtended .mair2El2 .read s.mair2El2 s s')

/-- 42_mair2_el2_access.md R121: clauses (0) to (3c); and (3d), (4), its corner case (iii) included. -/
def Obligations.MsrMair2El2RaisesOrCompletes : Prop :=
  ∀ (t : XReg) (s : State), t.WellFormed →
    decode (0xD51CA120#32 ||| t.toField.setWidth 32) = .ok (.msrMair2El2 t) ∧
    (UndefinedCause (.msrMair2El2 t) s → exec (.msrMair2El2 t) s = .fault .undefined) ∧
    (TrapEl2Cause (.msrMair2El2 t) s →
      exec (.msrMair2El2 t) s = .fault (.sysTrap .el2 0x18#8 (0xD51CA120#32 ||| t.toField.setWidth 32))) ∧
    (TrapEl3Cause (.msrMair2El2 t) s →
      exec (.msrMair2El2 t) s = .fault (.sysTrap .el3 0x18#8 (0xD51CA120#32 ||| t.toField.setWidth 32))) ∧
    (Present s → PcHasRoom s → Mair2El2Reaches s → NoHazard .mair2El2 .write s →
      ∃ s', exec (.msrMair2El2 t) s = .next s' ∧
        WriteDone .mair2El2 (if Res0Access s ∧ s.cfg.res0Mode = .razWi then s.mair2El2 else readX t s) s s' ∧
        RecordsExtended .mair2El2 .write (readX t s) s s')

/-- 10_state.md R24: `MAIR2_EL2` from EL3 without EL2 is RES0, under both behaviours of `res0Mode`. -/
def Obligations.Mair2El2IsRes0WithoutEl2 : Prop :=
  ∀ (t : XReg) (s : State), t.WellFormed → Present s → PcHasRoom s → Res0Access s →
    (∃ s', exec (.mrsMair2El2 t) s = .next s' ∧ SameRecords s s' ∧
      ReadDone t (match s.cfg.res0Mode with | .razWi => 0#64 | .storage => s.mair2El2) s s') ∧
    (∃ s', exec (.msrMair2El2 t) s = .next s' ∧ SameRecords s s' ∧
      WriteDone .mair2El2 (match s.cfg.res0Mode with | .razWi => s.mair2El2 | .storage => readX t s) s s')

/-! ### Frames -/

/-- R100, R110, R120: a read that completes, raced or not, changes `Xt` and `pc` only, the record of R176 its access is
in, and the count of free choices when it raced. -/
def Obligations.MrsFrame : Prop :=
  ∀ (i : Instr) (s s' : State), i.kind = .read → exec i s = .next s' →
    (∀ r, r ≠ i.operand → readX r s' = readX r s) ∧ s'.pc = s.pc + 4#64 ∧ SamePlaces s s' ∧ SameSurroundings s s' ∧
      RecordsFrame i s s'

/-- R101, R111, R121: a write that completes, raced or not, changes no general register and only the place its name
reaches; of the records what a read changes. -/
def Obligations.MsrFrame : Prop :=
  ∀ (i : Instr) (s s' : State), i.kind = .write → exec i s = .next s' →
    SameRegs s s' ∧ s'.pc = s.pc + 4#64 ∧ SameSurroundings s s' ∧ RecordsFrame i s s' ∧
    (s'.nvmem280 ≠ s.nvmem280 → NvmemCase i s) ∧
    (s'.mair2El1 ≠ s.mair2El1 → (i.name = .mair2El1 ∧ ¬ HostAtEl2 s ∧ ¬ NvmemCase i s) ∨
      (i.name = .mair2El12 ∧ (HostAtEl2 s ∨ HostAtEl3 s))) ∧
    (s'.mair2El2 ≠ s.mair2El2 → (i.name = .mair2El1 ∧ HostAtEl2 s) ∨
      (i.name = .mair2El2 ∧ (s.ctx.el = .el2 ∨ s.ctx.el = .el3)))

/-- 10_state.md R27: number 31 is the zero register. A write from it is a write from a register that holds zero; a read
to it makes every check a read to another register makes and changes no register. -/
def Obligations.RegisterThirtyOneIsZero : Prop :=
  ∀ (s s' : State) (t : XReg),
    (readX t s = 0#64 →
      (exec (.msrMair2El1 .xzr) s = .next s' ↔ exec (.msrMair2El1 t) s = .next s') ∧
      (exec (.msrMair2El12 .xzr) s = .next s' ↔ exec (.msrMair2El12 t) s = .next s') ∧
      (exec (.msrMair2El2 .xzr) s = .next s' ↔ exec (.msrMair2El2 t) s = .next s')) ∧
    (exec (.mrsMair2El1 .xzr) s = .next s' → SameRegs s s' ∧ ∃ s'', exec (.mrsMair2El1 t) s = .next s'') ∧
    (exec (.mrsMair2El12 .xzr) s = .next s' → SameRegs s s' ∧ ∃ s'', exec (.mrsMair2El12 t) s = .next s'') ∧
    (exec (.mrsMair2El2 .xzr) s = .next s' → SameRegs s s' ∧ ∃ s'', exec (.mrsMair2El2 t) s = .next s'')

/-- 10_state.md R26, R27: the general registers are thirty-one independent cells, and number 31 reads as zero. -/
def Obligations.GeneralRegistersAreCells : Prop :=
  ∀ (s : State) (v : Word),
    (∀ n, n ≤ 30 → readX (.x n) (writeX (.x n) v s) = v) ∧
    (∀ r t : XReg, r ≠ t → readX r (writeX t v s) = readX r s) ∧
    readX .xzr (writeX .xzr v s) = 0#64 ∧ (∀ t, SamePlaces s (writeX t v s))

/-- 40_mair2_el1_access.md R103, 20_memory.md R70: under one name a read returns the value the write before it wrote,
whichever place the name reaches. Under the race (log entry 7) it does so as long as no write under the other name is
unsynchronised, whatever reads under it are; RES0 (R24) apart. -/
def Obligations.SameNameReadReturnsTheWrite : Prop :=
  ∀ (i j : Instr) (s s1 s2 : State), i.kind = .write → j.kind = .read → i.name = j.name → j.WellFormed →
    (s.cfg.crossName = .refuse ∨ (Inv s ∧ NoHazard i.name .read s)) →
    (i.name = .mair2El2 → ¬ Res0Access s) →
    exec i s = .next s1 → exec j s1 = .next s2 →
    readX j.operand s2 = if j.operand = .xzr then 0#64 else readX i.operand s

/-! ### The cross-name hazard -/

/-- 70_reset_and_hazards.md R176 at EL2 in host mode, under the spec's own treatment (decision D11, log entry 7). -/
def Obligations.CrossNameAccessIsRefusedAtEl2 : Prop :=
  ∀ (i : Instr) (s : State), s.cfg.crossName = .refuse → Present s → PcHasRoom s → ¬ AieOff s → HostAtEl2 s →
    i.name ≠ .mair2El12 →
    (CrossNameConflict s.unsyncEL2.accesses i.name i.kind →
      exec i s = .refused .unsynchronisedCrossNameAccess) ∧
    (¬ CrossNameConflict s.unsyncEL2.accesses i.name i.kind →
      ∃ s', exec i s = .next s' ∧ s'.unsyncEL2.accesses = s.unsyncEL2.accesses ++ [(i.name, i.kind)] ∧
        s'.unsyncEL1 = s.unsyncEL1)

/-- R176's extension, the spec's own choice (log entry 9): the same for the two names that reach `MAIR2_EL1` at EL3. -/
def Obligations.CrossNameAccessIsRefusedAtEl3 : Prop :=
  ∀ (i : Instr) (s : State), s.cfg.crossName = .refuse → Present s → PcHasRoom s → HostAtEl3 s →
    i.name ≠ .mair2El2 →
    (CrossNameConflict s.unsyncEL1.accesses i.name i.kind →
      exec i s = .refused .unsynchronisedCrossNameAccess) ∧
    (¬ CrossNameConflict s.unsyncEL1.accesses i.name i.kind →
      ∃ s', exec i s = .next s' ∧ s'.unsyncEL1.accesses = s.unsyncEL1.accesses ++ [(i.name, i.kind)] ∧
        s'.unsyncEL2 = s.unsyncEL2)

/-- R176's alternative, the race (the model's `crossName = race`, log entries 7 and 9), at EL2 and at EL3 in host mode: a
cross-name read returns the value at the last synchronisation or one written since, never one older than the last access
under its own name (R70), whichever the free choice is. -/
def Obligations.RacingReadReturnsARacingValue : Prop :=
  ∀ (i : Instr) (s : State), s.cfg.crossName = .race → Present s → PcHasRoom s → Inv s → i.kind = .read →
    i.WellFormed →
    (¬ AieOff s → HostAtEl2 s → i.name ≠ .mair2El12 → CrossNameConflict s.unsyncEL2.accesses i.name .read →
      ∃ s' v, exec i s = .next s' ∧ ReadDone i.operand v s s' ∧ RacedRead i.name v s.unsyncEL2 s'.unsyncEL2 ∧
        s'.unsyncEL1 = s.unsyncEL1 ∧ s'.raceDraws = s.raceDraws + 1) ∧
    (HostAtEl3 s → i.name ≠ .mair2El2 → CrossNameConflict s.unsyncEL1.accesses i.name .read →
      ∃ s' v, exec i s = .next s' ∧ ReadDone i.operand v s s' ∧ RacedRead i.name v s.unsyncEL1 s'.unsyncEL1 ∧
        s'.unsyncEL2 = s.unsyncEL2 ∧ s'.raceDraws = s.raceDraws + 1)

/-- R176's alternative, the race, at EL2 and at EL3 in host mode (log entries 7 and 9): a cross-name write leaves its own
value or the value of an unsynchronised write under the other name, never one written earlier under its own name (R70),
whichever the free choice is. -/
def Obligations.RacingWriteLeavesARacingValue : Prop :=
  ∀ (i : Instr) (s : State), s.cfg.crossName = .race → Present s → PcHasRoom s → Inv s → i.kind = .write →
    (¬ AieOff s → HostAtEl2 s → i.name ≠ .mair2El12 → CrossNameConflict s.unsyncEL2.accesses i.name .write →
      ∃ s' v, exec i s = .next s' ∧ WriteDone .mair2El2 v s s' ∧
        RacedWrite i.name (readX i.operand s) s.mair2El2 v s.unsyncEL2 s'.unsyncEL2 ∧
        s'.unsyncEL1 = s.unsyncEL1 ∧ s'.raceDraws = s.raceDraws + 1) ∧
    (HostAtEl3 s → i.name ≠ .mair2El2 → CrossNameConflict s.unsyncEL1.accesses i.name .write →
      ∃ s' v, exec i s = .next s' ∧ WriteDone .mair2El1 v s s' ∧
        RacedWrite i.name (readX i.operand s) s.mair2El1 v s.unsyncEL1 s'.unsyncEL1 ∧
        s'.unsyncEL2 = s.unsyncEL2 ∧ s'.raceDraws = s.raceDraws + 1)

/-- R176, R70: the positions the race offers an access are exactly those that keep each name's accesses in program order
and, for a write, every value already returned (log entry 7). -/
def Obligations.RaceOffersEveryAllowedPosition : Prop :=
  ∀ (n : AccessorName) (l : List Effect) (j : Nat),
    (j ∈ readPositions n l ↔
      j ≤ l.length ∧ ∀ e ∈ l.take j, e.source ≠ none ∧ e.source ≠ some n) ∧
    (j ∈ writePositions n l ↔
      j ≤ l.length ∧ (∀ e ∈ l.take j, e.source ≠ none ∧ e.source ≠ some n) ∧
        ∀ e, (l.take j).getLast? = some e → e.kind = .write)

/-! ### What no access reaches -/

/-- 49_families_not_in_sources.md R134: outside its four cases an accessor neither reads nor writes the memory cell. -/
def Obligations.MemoryCellIsReachedInFourCasesOnly : Prop :=
  ∀ (i : Instr) (s : State) (v : Word), ¬ NvmemCase i s →
    exec i { s with nvmem280 := v } = mapNext (fun s' => { s' with nvmem280 := v }) (exec i s)

/-- 60_exceptions.md R150: EL0 and EL1 can never reach `MAIR2_EL2`: no step at those levels changes it or depends on
it. -/
def Obligations.LowerLevelsNeverReachMair2El2 : Prop :=
  ∀ (s : State) (v : Word), s.ctx.el = .el0 ∨ s.ctx.el = .el1 →
    step { s with mair2El2 := v } = mapNext (fun s' => { s' with mair2El2 := v }) (step s)

/-- 41_mair2_el12_access.md R111 corner case (viii): at EL2 in host mode only the name MAIR2_EL12 reaches
`MAIR2_EL1`. -/
def Obligations.HostAtEl2ReachesMair2El1ByOneName : Prop :=
  ∀ (i : Instr) (s : State) (v : Word), HostAtEl2 s → i.name ≠ .mair2El12 →
    exec i { s with mair2El1 := v } = mapNext (fun s' => { s' with mair2El1 := v }) (exec i s)

/-- 10_state.md R30, 20_memory.md R72, R29: no step writes the configuration, the context (the Exception level in it)
or instruction memory. -/
def Obligations.NoStepWritesContextOrProgram : Prop :=
  ∀ s s' : State, step s = .next s' →
    s'.cfg = s.cfg ∧ s'.ctx = s.ctx ∧ ∀ a, Memory.read s'.mem a = Memory.read s.mem a

/-! ### The invariant, reset and runs -/

/-- Every step keeps the invariant. -/
def Obligations.EveryStepKeepsTheInvariant : Prop :=
  ∀ s s' : State, Inv s → step s = .next s' → Inv s'

/-- The state after reset meets the invariant, and so does every launch at a multiple of 4. -/
def Obligations.ResetAndLaunchMeetTheInvariant : Prop :=
  Inv State.reset ∧
    ∀ (base : Word) (program : List InsnWord) (syncs : List Word) (s : State), base.toNat % 4 = 0 →
      Inv (launch base program syncs s)

/-- What reset leaves. Every value but the empty records (R34) is the model's choice (log entries 1 to 4, 8). -/
def Obligations.ResetLeavesTheLoggedValues : Prop :=
  (∀ t, readX t State.reset = 0#64) ∧ State.reset.mair2El1 = 0#64 ∧ State.reset.mair2El2 = 0#64 ∧
    State.reset.nvmem280 = 0#64 ∧ State.reset.pc = 0#64 ∧ State.reset.ctx.el = .el3 ∧
    State.reset.unsyncEL2.accesses = [] ∧ State.reset.unsyncEL1.accesses = [] ∧
    ∀ a, Memory.read State.reset.mem a = none

/-- 70_reset_and_hazards.md R181: the launch places the program. From any state that still has its memory, the word at
`progBase + 4k` is the program's, and the step there runs it; outside the program nothing has a value (log entry 5); all
else is as the rule says, with the records empty (10_state.md R34). -/
def Obligations.LaunchPlacesTheProgram : Prop :=
  ∀ (base : Word) (program : List InsnWord) (syncs : List Word) (s : State),
    base.toNat + 4 * program.length ≤ 2 ^ 64 →
    (launch base program syncs s).pc = base ∧ (launch base program syncs s).syncPlaces = syncs ∧
    (launch base program syncs s).unsyncEL2.accesses = [] ∧ (launch base program syncs s).unsyncEL1.accesses = [] ∧
    SameRegs s (launch base program syncs s) ∧ SamePlaces s (launch base program syncs s) ∧
    (launch base program syncs s).cfg = s.cfg ∧ (launch base program syncs s).ctx = s.ctx ∧
    (∀ (k : Nat) (w : InsnWord) (s' : State), program[k]? = some w → s'.mem = (launch base program syncs s).mem →
      s'.pc = base + BitVec.ofNat 64 (4 * k) →
      fetchWord s' = some w ∧
      ∀ i, base.toNat % 4 = 0 → s'.pc ∉ s'.syncPlaces → decode w = .ok i → step s' = exec i s') ∧
    ∀ a, a < base.toNat ∨ base.toNat + 4 * program.length ≤ a →
      Memory.read (launch base program syncs s).mem a = none

/-- 70_reset_and_hazards.md R180, R181: a straight-line program of `n` accessors ends after at most `n` steps, each
`ContextSync` of the run counted as one more. That a place is met by its `pc` is log entry 10; that the next step after
the program stops is the model's DESIGN CHOICE (log entry 5), since R181 says a PE fetches whatever lies there. -/
def Obligations.StraightLineProgramEnds : Prop :=
  ∀ (base : Word) (program : List InsnWord) (syncs : List Word) (s s' : State) (k : Nat),
    program.length + syncs.length < k →
    Host.Core.run Sys2Proof.core k (launch base program syncs s) ≠ .next s'

/-- 70_reset_and_hazards.md R181: after `k` steps with neither fault nor refusal, of which `used` were `ContextSync` steps
(log entry 10), `pc` is just past the `k - used` instructions run; when these are the whole program the run ends
successfully. Addresses are modulo 2^64 (log entry 27). -/
def Obligations.CompletedProgramEndsSuccessfully : Prop :=
  ∀ (base : Word) (program : List InsnWord) (syncs : List Word) (s s' : State) (k : Nat),
    Host.Core.run Sys2Proof.core k (launch base program syncs s) = .next s' →
    ∃ used, used + s'.syncPlaces.length = syncs.length ∧ used ≤ k ∧ k - used ≤ program.length ∧
      s'.pc = base + BitVec.ofNat 64 (4 * (k - used)) ∧
      (k - used = program.length → EndsSuccessfully k base program syncs s s')

/-! ### Attributes and syndrome -/

/-- 10_state.md R21: the eight fields tile the register with no gap. -/
def Obligations.AttrFieldsTileTheRegister : Prop :=
  ∀ r : Word,
    (∀ n b, n < 8 → b < 8 → (attrField r n).getLsbD b = r.getLsbD (8 * n + b)) ∧
    r = attrField r 7 ++ attrField r 6 ++ attrField r 5 ++ attrField r 4 ++ attrField r 3 ++ attrField r 2 ++
      attrField r 1 ++ attrField r 0 ∧
    ∀ r' : Word, (∀ n, n < 8 → attrField r' n = attrField r n) → r' = r

/-- 20_memory.md R50: the field `AttrIndx` selects. -/
def Obligations.AttrIndxSelectsTheField : Prop :=
  ∀ (r : Word) (aie : Bool) (idx : BitVec 4),
    (aie = true ∧ idx.getLsbD 3 = true →
      ∃ a, selectAttr r aie idx = some a ∧ ∀ b, b < 8 → a.getLsbD b = r.getLsbD (8 * (idx.toNat % 8) + b)) ∧
    (¬ (aie = true ∧ idx.getLsbD 3 = true) → selectAttr r aie idx = none)

/-- 20_memory.md R51, R52, R55, R56: the rows of the `Attr` table, and by them all 256 values. That the Normal row counts
the Transient types as Write-Back for the XS attribute is R57's own inference (log entry 19). -/
def Obligations.AttrTableRows : Prop :=
  ∀ xs mte : Bool,
    (∀ dd : BitVec 2, decodeAttr (0b0000#4 ++ dd ++ 0b00#2) xs mte = .device (devType dd) false) ∧
    (∀ dd : BitVec 2, decodeAttr (0b0000#4 ++ dd ++ 0b01#2) xs mte =
      if xs then .device (devType dd) true else .unpredictable) ∧
    (∀ (dd : BitVec 2) (b : BitVec 1), decodeAttr (0b0000#4 ++ dd ++ 0b1#1 ++ b) xs mte = .unpredictable) ∧
    (∀ o i : BitVec 4, o ≠ 0#4 → i ≠ 0#4 → decodeAttr (o ++ i) xs mte =
      .normal (cacheOf o) (cacheOf i) false (xs && (cacheOf o).isWB && (cacheOf i).isWB)) ∧
    decodeAttr 0x40#8 xs mte = (if xs then .normal .nc .nc false true else .unpredictable) ∧
    decodeAttr 0xA0#8 xs mte =
      (if xs then .normal (.wt false true false) (.wt false true false) false true else .unpredictable) ∧
    decodeAttr 0xF0#8 xs mte =
      (if mte then .normal (.wb false true true) (.wb false true true) true xs else .unpredictable) ∧
    (∀ o : BitVec 4, o ≠ 0b0000#4 → o ≠ 0b0100#4 → o ≠ 0b1010#4 → o ≠ 0b1111#4 →
      decodeAttr (o ++ 0b0000#4) xs mte = .unpredictable)

/-- 20_memory.md R53, R54: the Device types of `dd`, the cacheability of a nibble, which nibbles are Write-Back, and the
Normal rows, the high nibble outer and the low nibble inner. -/
def Obligations.AttrNibbleTables : Prop :=
  (devType 0b00#2 = .nGnRnE ∧ devType 0b01#2 = .nGnRE ∧ devType 0b10#2 = .nGRE ∧ devType 0b11#2 = .GRE) ∧
    (∀ r w : BitVec 1,
      (r ++ w ≠ 0b00#2 → cacheOf (0b00#2 ++ r ++ w) = .wt true (r.getLsbD 0) (w.getLsbD 0)) ∧
      cacheOf 0b0100#4 = .nc ∧
      (r ++ w ≠ 0b00#2 → cacheOf (0b01#2 ++ r ++ w) = .wb true (r.getLsbD 0) (w.getLsbD 0)) ∧
      cacheOf (0b10#2 ++ r ++ w) = .wt false (r.getLsbD 0) (w.getLsbD 0) ∧
      cacheOf (0b11#2 ++ r ++ w) = .wb false (r.getLsbD 0) (w.getLsbD 0)) ∧
    (∀ n : BitVec 4, n ≠ 0b0000#4 →
      ((cacheOf n).isWB = true ↔ n ∈ [0x5#4, 0x6#4, 0x7#4, 0xC#4, 0xD#4, 0xE#4, 0xF#4])) ∧
    ∀ (o i : BitVec 4) (xs mte : Bool), o ≠ 0b0000#4 → i ≠ 0b0000#4 →
      ∃ xs0, decodeAttr (o ++ i) xs mte = .normal (cacheOf o) (cacheOf i) false xs0

/-- 10_state.md R23, 20_memory.md R50: after `MSR MAIR2_EL1, <Xt>` at EL3 every field a translation table entry can
select is the source's byte, whatever its meaning, UNPREDICTABLE among them. -/
def Obligations.WrittenBytesAreTheSelectedAttributes : Prop :=
  ∀ (t : XReg) (s : State) (idx : BitVec 4), t.WellFormed → Present s → PcHasRoom s → s.ctx.el = .el3 →
    NoHazard .mair2El1 .write s → idx.getLsbD 3 = true →
    ∃ s', exec (.msrMair2El1 t) s = .next s' ∧
      selectAttr s'.mair2El1 true idx = some ((readX t s).extractLsb' (8 * (idx.toNat % 8)) 8)

/-- The syndrome values 60_exceptions.md R141 gives for orientation (PRESUMED there and here, log entry 20). -/
def Obligations.SyndromeOfEachTrappedAccessor : Prop :=
  ∀ t : XReg, t.WellFormed →
    trapESR 0x18#8 (encode (.mrsMair2El1 t)) = 0x62322805#32 + (t.toField.setWidth 32 <<< 5) ∧
    trapESR 0x18#8 (encode (.msrMair2El1 t)) = 0x62322804#32 + (t.toField.setWidth 32 <<< 5) ∧
    trapESR 0x18#8 (encode (.mrsMair2El12 t)) = 0x62336805#32 + (t.toField.setWidth 32 <<< 5) ∧
    trapESR 0x18#8 (encode (.msrMair2El12 t)) = 0x62336804#32 + (t.toField.setWidth 32 <<< 5) ∧
    trapESR 0x18#8 (encode (.mrsMair2El2 t)) = 0x62332803#32 + (t.toField.setWidth 32 <<< 5) ∧
    trapESR 0x18#8 (encode (.msrMair2El2 t)) = 0x62332802#32 + (t.toField.setWidth 32 <<< 5)
end

