-- ==== Sys2Proof/Laws/Checks.lean ====
section
/-! SUPPORT. Everything the three chains of tests can answer, in the terms of Sys2Proof/Safety.lean; cited instead of
unfolding a chain. -/

namespace Sys2Proof.Machine

theorem nvxBit0_of_five {s : State} (h : s.ctx.nvx = 0b101#3) : NvxBit0 s := by
  unfold NvxBit0; rw [h]; rfl

/-- The name MAIR2_EL1 is Undefined at clauses (0), (1), (2a), (2d), (3a), (3b) (R100, R101). -/
theorem checkMair2El1_undefined_iff (k : AccessKind) (s : State) :
    checkMair2El1 k s.cfg s.ctx = .undefined ↔
      ¬ Present s ∨ s.ctx.el = .el0 ∨
        (s.ctx.el = .el1 ∧ AieOff s ∧ (s.ctx.sddPrio = true ∨ (s.ctx.sddUndef = true ∧ ¬ El2Traps k s))) ∨
        (s.ctx.el = .el2 ∧ AieOff s ∧ (s.ctx.sddPrio = true ∨ s.ctx.sddUndef = true)) := by
  cases k <;> cases hel : s.ctx.el <;>
    simp only [checkMair2El1, hel, present, Present, AieOff, aieOff, El2Traps, El2TrapsRead, El2TrapsWrite,
      coarseTrapBit, fineTrapBit, fgtOn] <;> grind

/-- The name MAIR2_EL1 traps at clauses (2b), (2c), (2e), (3c) (R100, R101). -/
theorem checkMair2El1_trap_iff (k : AccessKind) (s : State) (g : TrapTarget) :
    checkMair2El1 k s.cfg s.ctx = .trap g ↔
      Present s ∧
        ((g = .el2 ∧ s.ctx.el = .el1 ∧ El2Traps k s ∧ ¬ (AieOff s ∧ s.ctx.sddPrio = true)) ∨
          (g = .el3 ∧ (s.ctx.el = .el1 ∧ ¬ El2Traps k s ∨ s.ctx.el = .el2) ∧ AieOff s ∧ s.ctx.sddPrio = false ∧
            s.ctx.sddUndef = false)) := by
  cases k <;> cases hel : s.ctx.el <;> cases g <;>
    simp only [checkMair2El1, hel, present, Present, AieOff, aieOff, El2Traps, El2TrapsRead, El2TrapsWrite,
      coarseTrapBit, fineTrapBit, fgtOn] <;> grind

/-- The name MAIR2_EL1 reaches one place at clauses (2f), (2g), (3d), (3e), (4) (R100, R101). -/
theorem checkMair2El1_reach_iff (k : AccessKind) (s : State) (p : Place) :
    checkMair2El1 k s.cfg s.ctx = .reach p ↔
      Present s ∧ s.ctx.el ≠ .el0 ∧ (s.ctx.el = .el1 → ¬ El2Traps k s) ∧ (s.ctx.el ≠ .el3 → ¬ AieOff s) ∧
        p = mair2El1NamePlace s := by
  cases k <;> cases hel : s.ctx.el <;>
    simp only [checkMair2El1, mair2El1NamePlace, hel, present, Present, AieOff, aieOff, El2Traps, El2TrapsRead,
      El2TrapsWrite, coarseTrapBit, fineTrapBit, fgtOn] <;> grind

/-- The name MAIR2_EL12 is Undefined at clauses (0), (1), (2c), (3a), (3b), (3e), (4b) (R110, R111). -/
theorem checkMair2El12_undefined_iff (s : State) :
    checkMair2El12 s.cfg s.ctx = .undefined ↔
      ¬ Present s ∨ s.ctx.el = .el0 ∨ (s.ctx.el = .el1 ∧ ¬ NvxBit0 s) ∨
        (s.ctx.el = .el2 ∧
          (s.ctx.inHostEL2 = false ∨ (AieOff s ∧ (s.ctx.sddPrio = true ∨ s.ctx.sddUndef = true)))) ∨
        (s.ctx.el = .el3 ∧ s.ctx.inHostEL2 = false) := by
  have h5 := @nvxBit0_of_five s
  simp only [NvxBit0] at h5
  cases hel : s.ctx.el <;> simp only [checkMair2El12, hel, present, Present, AieOff, aieOff, NvxBit0] <;> grind

/-- The name MAIR2_EL12 traps at clauses (2b), (3c) (R110, R111). -/
theorem checkMair2El12_trap_iff (s : State) (g : TrapTarget) :
    checkMair2El12 s.cfg s.ctx = .trap g ↔
      Present s ∧
        ((g = .el2 ∧ s.ctx.el = .el1 ∧ NvxBit0 s ∧ s.ctx.nvx ≠ 0b101#3) ∨
          (g = .el3 ∧ HostAtEl2 s ∧ AieOff s ∧ s.ctx.sddPrio = false ∧ s.ctx.sddUndef = false)) := by
  cases hel : s.ctx.el <;> cases g <;>
    simp only [checkMair2El12, hel, present, Present, AieOff, aieOff, NvxBit0, HostAtEl2] <;> grind

/-- The name MAIR2_EL12 reaches the memory cell at clause (2a), `MAIR2_EL1` at (3d), (4a) (R110, R111). -/
theorem checkMair2El12_reach_iff (s : State) (p : Place) :
    checkMair2El12 s.cfg s.ctx = .reach p ↔
      Present s ∧ Mair2El12Reaches s ∧ p = if s.ctx.el = .el1 then .nvmem280 else .mair2El1 := by
  cases hel : s.ctx.el <;>
    simp only [checkMair2El12, Mair2El12Reaches, HostAtEl2, HostAtEl3, hel, present, Present, AieOff, aieOff] <;> grind

/-- The name MAIR2_EL2 is Undefined at clauses (0), (1), (2b), (3a), (3b) (R120, R121). -/
theorem checkMair2El2_undefined_iff (s : State) :
    checkMair2El2 s.cfg s.ctx = .undefined ↔
      ¬ Present s ∨ s.ctx.el = .el0 ∨ (s.ctx.el = .el1 ∧ ¬ NvxBit0 s) ∨
        (s.ctx.el = .el2 ∧ AieOff s ∧ (s.ctx.sddPrio = true ∨ s.ctx.sddUndef = true)) := by
  cases hel : s.ctx.el <;> simp only [checkMair2El2, hel, present, Present, AieOff, aieOff, NvxBit0] <;> grind

/-- The name MAIR2_EL2 traps at clauses (2a), (3c) (R120, R121). -/
theorem checkMair2El2_trap_iff (s : State) (g : TrapTarget) :
    checkMair2El2 s.cfg s.ctx = .trap g ↔
      Present s ∧
        ((g = .el2 ∧ s.ctx.el = .el1 ∧ NvxBit0 s) ∨
          (g = .el3 ∧ s.ctx.el = .el2 ∧ AieOff s ∧ s.ctx.sddPrio = false ∧ s.ctx.sddUndef = false)) := by
  cases hel : s.ctx.el <;> cases g <;>
    simp only [checkMair2El2, hel, present, Present, AieOff, aieOff, NvxBit0] <;> grind

/-- The name MAIR2_EL2 reaches `MAIR2_EL2` only, at clauses (3d), (4) (R120, R121). -/
theorem checkMair2El2_reach_iff (s : State) (p : Place) :
    checkMair2El2 s.cfg s.ctx = .reach p ↔ Present s ∧ Mair2El2Reaches s ∧ p = .mair2El2 := by
  cases hel : s.ctx.el <;> simp only [checkMair2El2, Mair2El2Reaches, hel, present, Present, AieOff, aieOff] <;> grind

end Sys2Proof.Machine
end

