-- ==== Sys2Proof/Laws/Memory.lean ====
section
/-! SUPPORT. The laws of instruction memory: the canonical form is kept by every operation, a read after a write gives
the byte written and every other byte is as before. -/

namespace Sys2Proof.Machine

theorem Memory.risingFrom_mono {lo lo' : Nat} {m : Memory} (hle : lo' ≤ lo) (h : Memory.risingFrom lo m = true) :
    Memory.risingFrom lo' m = true := by
  cases m with
  | nil => rfl
  | cons c m =>
    simp only [Memory.risingFrom, Bool.and_eq_true, decide_eq_true_eq] at h ⊢
    exact ⟨⟨le_trans hle h.1.1, h.1.2⟩, h.2⟩

theorem Memory.insert_risingFrom {a : Nat} (ha : a < 2 ^ 64) (b : Byte) :
    ∀ {lo : Nat} {m : Memory}, lo ≤ a → Memory.risingFrom lo m = true →
      Memory.risingFrom lo (Memory.insert a b m) = true := by
  intro lo m
  induction m generalizing lo with
  | nil =>
    intro hlo _
    simp only [Memory.insert, Memory.risingFrom, Bool.and_eq_true, decide_eq_true_eq, and_true]
    exact ⟨hlo, ha⟩
  | cons c m ih =>
    intro hlo h
    simp only [Memory.risingFrom, Bool.and_eq_true, decide_eq_true_eq] at h
    obtain ⟨⟨h1, h2⟩, h3⟩ := h
    unfold Memory.insert
    split
    · simp only [Memory.risingFrom, Bool.and_eq_true, decide_eq_true_eq]
      exact ⟨⟨hlo, ha⟩, ⟨by omega, h2⟩, h3⟩
    · split
      · subst a
        simp only [Memory.risingFrom, Bool.and_eq_true, decide_eq_true_eq]
        exact ⟨⟨h1, h2⟩, h3⟩
      · simp only [Memory.risingFrom, Bool.and_eq_true, decide_eq_true_eq]
        exact ⟨⟨h1, h2⟩, ih (by omega) h3⟩

theorem Memory.write_wf {m : Memory} (a : Word) (b : Byte) (h : Memory.wf m = true) :
    Memory.wf (Memory.write m a b) = true :=
  Memory.insert_risingFrom a.isLt b (Nat.zero_le _) h

theorem Memory.writeBytes_wf {m : Memory} (a : Word) (bs : List Byte) (h : Memory.wf m = true) :
    Memory.wf (Memory.writeBytes m a bs) = true := by
  induction bs generalizing m a with
  | nil => exact h
  | cons b bs ih => exact ih (a + 1#64) (Memory.write_wf a b h)

theorem Memory.empty_wf : Memory.wf [] = true := rfl

theorem Memory.read_insert_same (m : Memory) (a : Nat) (b : Byte) :
    Memory.read (Memory.insert a b m) a = some b := by
  induction m with
  | nil => simp [Memory.insert, Memory.read]
  | cons c m ih =>
    unfold Memory.insert
    split
    · simp [Memory.read]
    · split
      · simp [Memory.read]
      · rename_i h1 h2
        simp only [Memory.read]
        rw [if_neg (fun h => h2 h.symm), ih]

theorem Memory.read_insert_other (m : Memory) {a a' : Nat} (b : Byte) (h : a' ≠ a) :
    Memory.read (Memory.insert a b m) a' = Memory.read m a' := by
  induction m with
  | nil => simp [Memory.insert, Memory.read, h.symm]
  | cons c m ih =>
    unfold Memory.insert
    split
    · simp [Memory.read, h.symm]
    · split
      · rename_i h1 h2
        subst h2
        simp [Memory.read, h.symm]
      · simp only [Memory.read, ih]

theorem Memory.read_write_same (m : Memory) (a : Word) (b : Byte) :
    Memory.read (Memory.write m a b) a.toNat = some b :=
  Memory.read_insert_same m a.toNat b

theorem Memory.read_write_other (m : Memory) {a a' : Word} (b : Byte) (h : a' ≠ a) :
    Memory.read (Memory.write m a b) a'.toNat = Memory.read m a'.toNat :=
  Memory.read_insert_other m b (fun e => h (BitVec.eq_of_toNat_eq e))

/-- Placing a word keeps the canonical form of memory. -/
theorem placeFetchWord_mem_wf {s : State} (w : InsnWord) (h : Memory.wf s.mem = true) :
    Memory.wf (placeFetchWord s w).mem = true :=
  Memory.writeBytes_wf _ _ h

/-- A launched program's memory has the canonical form. -/
theorem launch_mem_wf (base : Word) (ws : List InsnWord) (ss : List Word) (s : State) :
    Memory.wf (launch base ws ss s).mem = true :=
  Memory.writeBytes_wf _ _ Memory.empty_wf

/-- Memory after reset has the canonical form. -/
theorem reset_mem_wf : Memory.wf State.reset.mem = true := rfl

end Sys2Proof.Machine
end

