-- ==== Sys2Proof/Laws/State.lean ====
section
/-! SUPPORT. One lemma per field per named update of the state, so that later proofs unfold no update. -/

namespace Sys2Proof.Machine

variable (s : State) (t : XReg) (v : Word) (p : Place) (h : HazardPair) (u : Unsync)

@[simp] theorem writeX_xzr : writeX .xzr v s = s := rfl

@[simp] theorem writeX_cfg : (writeX t v s).cfg = s.cfg := rfl
@[simp] theorem writeX_ctx : (writeX t v s).ctx = s.ctx := rfl
@[simp] theorem writeX_pc : (writeX t v s).pc = s.pc := rfl
@[simp] theorem writeX_mair2El1 : (writeX t v s).mair2El1 = s.mair2El1 := rfl
@[simp] theorem writeX_mair2El2 : (writeX t v s).mair2El2 = s.mair2El2 := rfl
@[simp] theorem writeX_nvmem280 : (writeX t v s).nvmem280 = s.nvmem280 := rfl
@[simp] theorem writeX_unsyncEL2 : (writeX t v s).unsyncEL2 = s.unsyncEL2 := rfl
@[simp] theorem writeX_unsyncEL1 : (writeX t v s).unsyncEL1 = s.unsyncEL1 := rfl
@[simp] theorem writeX_raceDraws : (writeX t v s).raceDraws = s.raceDraws := rfl
@[simp] theorem writeX_syncPlaces : (writeX t v s).syncPlaces = s.syncPlaces := rfl
@[simp] theorem writeX_mem : (writeX t v s).mem = s.mem := rfl

@[simp] theorem writePlace_cfg : (writePlace p v s).cfg = s.cfg := by
  cases p <;> simp only [writePlace]; split <;> rfl
@[simp] theorem writePlace_ctx : (writePlace p v s).ctx = s.ctx := by
  cases p <;> simp only [writePlace]; split <;> rfl
@[simp] theorem writePlace_regs : (writePlace p v s).regs = s.regs := by
  cases p <;> simp only [writePlace]; split <;> rfl
@[simp] theorem writePlace_pc : (writePlace p v s).pc = s.pc := by
  cases p <;> simp only [writePlace]; split <;> rfl
@[simp] theorem writePlace_unsyncEL2 : (writePlace p v s).unsyncEL2 = s.unsyncEL2 := by
  cases p <;> simp only [writePlace]; split <;> rfl
@[simp] theorem writePlace_unsyncEL1 : (writePlace p v s).unsyncEL1 = s.unsyncEL1 := by
  cases p <;> simp only [writePlace]; split <;> rfl
@[simp] theorem writePlace_raceDraws : (writePlace p v s).raceDraws = s.raceDraws := by
  cases p <;> simp only [writePlace]; split <;> rfl
@[simp] theorem writePlace_syncPlaces : (writePlace p v s).syncPlaces = s.syncPlaces := by
  cases p <;> simp only [writePlace]; split <;> rfl
@[simp] theorem writePlace_mem : (writePlace p v s).mem = s.mem := by
  cases p <;> simp only [writePlace]; split <;> rfl

@[simp] theorem setUnsync_cfg : (setUnsync h u s).cfg = s.cfg := by cases h <;> rfl
@[simp] theorem setUnsync_ctx : (setUnsync h u s).ctx = s.ctx := by cases h <;> rfl
@[simp] theorem setUnsync_regs : (setUnsync h u s).regs = s.regs := by cases h <;> rfl
@[simp] theorem setUnsync_pc : (setUnsync h u s).pc = s.pc := by cases h <;> rfl
@[simp] theorem setUnsync_mair2El1 : (setUnsync h u s).mair2El1 = s.mair2El1 := by cases h <;> rfl
@[simp] theorem setUnsync_mair2El2 : (setUnsync h u s).mair2El2 = s.mair2El2 := by cases h <;> rfl
@[simp] theorem setUnsync_nvmem280 : (setUnsync h u s).nvmem280 = s.nvmem280 := by cases h <;> rfl
@[simp] theorem setUnsync_raceDraws : (setUnsync h u s).raceDraws = s.raceDraws := by cases h <;> rfl
@[simp] theorem setUnsync_syncPlaces : (setUnsync h u s).syncPlaces = s.syncPlaces := by cases h <;> rfl
@[simp] theorem setUnsync_mem : (setUnsync h u s).mem = s.mem := by cases h <;> rfl

variable (n : AccessorName) (k : AccessKind) (j : Nat)

@[simp] theorem recordAccess_cfg : (recordAccess n k p j v s).cfg = s.cfg := by
  unfold recordAccess; split <;> simp
@[simp] theorem recordAccess_ctx : (recordAccess n k p j v s).ctx = s.ctx := by
  unfold recordAccess; split <;> simp
@[simp] theorem recordAccess_regs : (recordAccess n k p j v s).regs = s.regs := by
  unfold recordAccess; split <;> simp
@[simp] theorem recordAccess_pc : (recordAccess n k p j v s).pc = s.pc := by
  unfold recordAccess; split <;> simp
@[simp] theorem recordAccess_mair2El1 : (recordAccess n k p j v s).mair2El1 = s.mair2El1 := by
  unfold recordAccess; split <;> simp
@[simp] theorem recordAccess_mair2El2 : (recordAccess n k p j v s).mair2El2 = s.mair2El2 := by
  unfold recordAccess; split <;> simp
@[simp] theorem recordAccess_nvmem280 : (recordAccess n k p j v s).nvmem280 = s.nvmem280 := by
  unfold recordAccess; split <;> simp
@[simp] theorem recordAccess_raceDraws : (recordAccess n k p j v s).raceDraws = s.raceDraws := by
  unfold recordAccess; split <;> simp
@[simp] theorem recordAccess_syncPlaces : (recordAccess n k p j v s).syncPlaces = s.syncPlaces := by
  unfold recordAccess; split <;> simp
@[simp] theorem recordAccess_mem : (recordAccess n k p j v s).mem = s.mem := by
  unfold recordAccess; split <;> simp

@[simp] theorem writeAt_zero : writeAt p v 0 s = writePlace p v s := rfl
@[simp] theorem writeAt_succ : writeAt p v (j + 1) s = s := rfl
@[simp] theorem writeAt_cfg : (writeAt p v j s).cfg = s.cfg := by
  cases j <;> simp [writeAt]
@[simp] theorem writeAt_ctx : (writeAt p v j s).ctx = s.ctx := by
  cases j <;> simp [writeAt]
@[simp] theorem writeAt_regs : (writeAt p v j s).regs = s.regs := by
  cases j <;> simp [writeAt]
@[simp] theorem writeAt_pc : (writeAt p v j s).pc = s.pc := by
  cases j <;> simp [writeAt]
@[simp] theorem writeAt_unsyncEL2 : (writeAt p v j s).unsyncEL2 = s.unsyncEL2 := by
  cases j <;> simp [writeAt]
@[simp] theorem writeAt_unsyncEL1 : (writeAt p v j s).unsyncEL1 = s.unsyncEL1 := by
  cases j <;> simp [writeAt]
@[simp] theorem writeAt_raceDraws : (writeAt p v j s).raceDraws = s.raceDraws := by
  cases j <;> simp [writeAt]
@[simp] theorem writeAt_syncPlaces : (writeAt p v j s).syncPlaces = s.syncPlaces := by
  cases j <;> simp [writeAt]
@[simp] theorem writeAt_mem : (writeAt p v j s).mem = s.mem := by
  cases j <;> simp [writeAt]

@[simp] theorem contextSync_cfg : (contextSync s).cfg = s.cfg := rfl
@[simp] theorem contextSync_ctx : (contextSync s).ctx = s.ctx := rfl
@[simp] theorem contextSync_regs : (contextSync s).regs = s.regs := rfl
@[simp] theorem contextSync_pc : (contextSync s).pc = s.pc := rfl
@[simp] theorem contextSync_mair2El1 : (contextSync s).mair2El1 = s.mair2El1 := rfl
@[simp] theorem contextSync_mair2El2 : (contextSync s).mair2El2 = s.mair2El2 := rfl
@[simp] theorem contextSync_nvmem280 : (contextSync s).nvmem280 = s.nvmem280 := rfl
@[simp] theorem contextSync_raceDraws : (contextSync s).raceDraws = s.raceDraws := rfl
@[simp] theorem contextSync_syncPlaces : (contextSync s).syncPlaces = s.syncPlaces := rfl
@[simp] theorem contextSync_mem : (contextSync s).mem = s.mem := rfl
@[simp] theorem contextSync_unsyncEL2 : (contextSync s).unsyncEL2 = ⟨[], []⟩ := rfl
@[simp] theorem contextSync_unsyncEL1 : (contextSync s).unsyncEL1 = ⟨[], []⟩ := rfl

end Sys2Proof.Machine
end

