-- ==== Sys2Proof/Laws/Operands.lean ====
section
/-! SUPPORT. Reading and writing the general registers (10_state.md R26, R27). -/

namespace Sys2Proof.Machine

@[simp] theorem readX_xzr (s : State) : readX .xzr s = 0#64 := rfl

/-- A read sees only the register file. -/
theorem readX_congr {s s' : State} (h : s'.regs = s.regs) (t : XReg) : readX t s' = readX t s := by
  cases t with
  | x n => simp only [readX, h]
  | xzr => rfl

/-- A register that exists reads as the value written. -/
theorem readX_writeX_same {n : Nat} (hn : n ≤ 30) (v : Word) (s : State) :
    readX (.x n) (writeX (.x n) v s) = v := by
  have h : n < 31 := by omega
  simp [readX, writeX, setReg, h]

/-- Every other register reads as before. -/
theorem readX_writeX_other {r t : XReg} (hrt : r ≠ t) (v : Word) (s : State) :
    readX r (writeX t v s) = readX r s := by
  cases t with
  | xzr => rfl
  | x n =>
    cases r with
    | xzr => rfl
    | x m =>
      have hmn : n ≠ m := fun e => hrt (by rw [e])
      by_cases hn : n < 31
      · by_cases hm : m < 31
        · simp [readX, writeX, setReg, hn, hm, hmn]
        · simp [readX, hm]
      · simp [writeX, setReg, hn]

@[simp] theorem readX_recordAccess (t : XReg) (n : AccessorName) (k : AccessKind) (p : Place) (j : Nat)
    (v : Word) (s : State) : readX t (recordAccess n k p j v s) = readX t s :=
  readX_congr (recordAccess_regs ..) t

@[simp] theorem readX_writeAt (t : XReg) (p : Place) (v : Word) (j : Nat) (s : State) :
    readX t (writeAt p v j s) = readX t s :=
  readX_congr (writeAt_regs ..) t

@[simp] theorem readX_writePlace (t : XReg) (p : Place) (v : Word) (s : State) :
    readX t (writePlace p v s) = readX t s :=
  readX_congr (writePlace_regs ..) t

@[simp] theorem readX_contextSync (t : XReg) (s : State) : readX t (contextSync s) = readX t s :=
  readX_congr rfl t

end Sys2Proof.Machine
end

