-- ==== Sys2Proof/Laws/Ops.lean ====
section
/-! SUPPORT. For each shared operation, once, everything it can do. -/

namespace Sys2Proof.Machine

/-- Completion answers a next state exactly when `pc + 4` does not wrap; then only `pc` moves (R28). -/
theorem complete_next_iff {s s' : State} :
    complete s = .next s' ↔ s.pc.toNat + 4 < 2 ^ 64 ∧ s' = { s with pc := s.pc + 4#64 } := by
  unfold complete pcWraps
  by_cases h : 2 ^ 64 ≤ s.pc.toNat + 4
  · simp only [h, decide_true, if_true]
    constructor
    · intro h'; cases h'
    · intro h'; omega
  · simp only [h, decide_false, if_neg, Bool.false_eq_true, not_false_eq_true]
    constructor
    · intro h'; cases h'; exact ⟨by omega, rfl⟩
    · rintro ⟨_, rfl⟩; rfl

/-- Completion never faults. -/
theorem complete_ne_fault {s : State} {f : Fault} : complete s ≠ .fault f := by
  unfold complete; split <;> simp

/-- Completion refuses by one name only (R28). -/
theorem complete_refused_iff {s : State} {r : Refusal} :
    complete s = .refused r ↔ 2 ^ 64 ≤ s.pc.toNat + 4 ∧ r = .pcWrap := by
  unfold complete pcWraps
  by_cases h : 2 ^ 64 ≤ s.pc.toNat + 4
  · simp only [h, decide_true, if_true, true_and]
    constructor
    · intro h'; cases h'; rfl
    · rintro rfl; rfl
  · simp only [h, decide_false, Bool.false_eq_true, if_false, false_and, iff_false]
    simp

/-- The position a transfer takes: program order without a hazard, a chosen position in the race (R176). -/
theorem arbitrate_some {hz : Bool} {ps : List Nat} {j : Nat} {s s1 : State} (h : arbitrate hz ps s = some (j, s1)) :
    (hz = false ∧ j = 0 ∧ s1 = s) ∨
      (hz = true ∧ s.cfg.crossName = .race ∧ j = pickPosition ps s.raceDraws ∧
        s1 = { s with raceDraws := s.raceDraws + 1 }) := by
  unfold arbitrate at h
  split at h
  · split at h
    · cases h
    · rename_i h1 m h2
      simp only [Option.some.injEq, Prod.mk.injEq] at h
      exact .inr ⟨h1, h2, h.1.symm, h.2.symm⟩
  · rename_i h1
    simp only [Option.some.injEq, Prod.mk.injEq] at h
    exact .inl ⟨by simpa using h1, h.1.symm, h.2.symm⟩

/-- A transfer is refused for the hazard only under the spec's refusal (R176). -/
theorem arbitrate_none_iff {hz : Bool} {ps : List Nat} {s : State} :
    arbitrate hz ps s = none ↔ hz = true ∧ s.cfg.crossName = .refuse := by
  unfold arbitrate
  cases hz <;> cases hm : s.cfg.crossName <;> simp

/-- A free choice among positions answers one of them. -/
theorem pickPosition_mem {ps : List Nat} (hne : ps ≠ []) (draw : Nat) : pickPosition ps draw ∈ ps := by
  unfold pickPosition
  have hlt : Config.raceChoice draw % ps.length < ps.length := Nat.mod_lt _ (List.length_pos_iff.mpr hne)
  rw [List.getD_eq_getElem _ _ hlt]
  exact List.getElem_mem hlt

/-- Program order is a position of every read. -/
theorem zero_mem_readPositions (n : AccessorName) (l : List Effect) : 0 ∈ readPositions n l := by
  simp [readPositions]

/-- Program order is a position of every write. -/
theorem zero_mem_writePositions (n : AccessorName) (l : List Effect) : 0 ∈ writePositions n l := by
  simp [writePositions, readPositions, nextIsWrite]

/-- An access takes effect before accesses of the other name only (R70): it splits the order in two. -/
theorem split_of_le_overtakable {n : AccessorName} {l : List Effect} :
    ∀ {j : Nat}, j ≤ overtakable n l →
      j ≤ l.length ∧ ∀ e ∈ l.take j, e.source ≠ none ∧ e.source ≠ some n := by
  induction l with
  | nil => intro j h; simp [overtakable] at h; simp [h]
  | cons e l ih =>
    intro j h
    cases j with
    | zero => simp
    | succ j =>
      unfold overtakable at h
      split at h
      · omega
      · rename_i hs
        obtain ⟨h1, h2⟩ := ih (j := j) (by omega)
        refine ⟨by simpa using h1, fun f hf => ?_⟩
        rw [List.take_succ_cons, List.mem_cons] at hf
        rcases hf with rfl | hf
        · exact ⟨fun h => hs (.inl h), fun h => hs (.inr h)⟩
        · exact h2 f hf

/-- Everything a completed read can do. -/
theorem transferRead_next {n : AccessorName} {p : Place} {t : XReg} {s s' : State}
    (h : transferRead n p t s = .next s') :
    ∃ j s1, arbitrate (crossNameHazard n .read p s) (readPositions n (placeEffects p s)) s = some (j, s1) ∧
      s.pc.toNat + 4 < 2 ^ 64 ∧
      s' = { writeX t (valueAt (placeEffects p s) (readPlace p s) j)
               (recordAccess n .read p j (valueAt (placeEffects p s) (readPlace p s) j) s1) with
             pc := s.pc + 4#64 } := by
  unfold transferRead at h
  split at h
  · cases h
  · rename_i j s1 ha
    have hpc : s1.pc = s.pc := by
      rcases arbitrate_some ha with ⟨_, _, rfl⟩ | ⟨_, _, _, rfl⟩ <;> rfl
    obtain ⟨h1, h2⟩ := complete_next_iff.mp h
    refine ⟨j, s1, ha, ?_, ?_⟩
    · simpa [hpc] using h1
    · simpa [hpc] using h2

/-- Everything a completed write can do. -/
theorem transferWrite_next {n : AccessorName} {p : Place} {t : XReg} {s s' : State}
    (h : transferWrite n p t s = .next s') :
    ∃ j s1, arbitrate (crossNameHazard n .write p s) (writePositions n (placeEffects p s)) s = some (j, s1) ∧
      s.pc.toNat + 4 < 2 ^ 64 ∧
      s' = { writeAt p (readX t s) j (recordAccess n .write p j (readX t s) s1) with pc := s.pc + 4#64 } := by
  unfold transferWrite at h
  split at h
  · cases h
  · rename_i j s1 ha
    have hpc : s1.pc = s.pc := by
      rcases arbitrate_some ha with ⟨_, _, rfl⟩ | ⟨_, _, _, rfl⟩ <;> rfl
    obtain ⟨h1, h2⟩ := complete_next_iff.mp h
    refine ⟨j, s1, ha, ?_, ?_⟩
    · simpa [hpc] using h1
    · simpa [hpc] using h2

/-- A read that meets no hazard moves the value in program order and is recorded (R70, R176). -/
theorem transferRead_inOrder {n : AccessorName} {p : Place} {t : XReg} {s : State}
    (hz : crossNameHazard n .read p s = false) (hpc : s.pc.toNat + 4 < 2 ^ 64) :
    transferRead n p t s =
      .next { writeX t (readPlace p s) (recordAccess n .read p 0 (readPlace p s) s) with pc := s.pc + 4#64 } := by
  simp only [transferRead, arbitrate, hz, Bool.false_eq_true, if_false, valueAt]
  exact complete_next_iff.mpr ⟨by simpa only [writeX_pc, recordAccess_pc] using hpc, by simp⟩

/-- A write that meets no hazard moves the value in program order and is recorded (R70, R176). -/
theorem transferWrite_inOrder {n : AccessorName} {p : Place} {t : XReg} {s : State}
    (hz : crossNameHazard n .write p s = false) (hpc : s.pc.toNat + 4 < 2 ^ 64) :
    transferWrite n p t s =
      .next { writePlace p (readX t s) (recordAccess n .write p 0 (readX t s) s) with pc := s.pc + 4#64 } := by
  simp only [transferWrite, arbitrate, hz, Bool.false_eq_true, if_false, writeAt]
  exact complete_next_iff.mpr ⟨by simpa only [writePlace_pc, recordAccess_pc] using hpc, by simp⟩

/-- R176's test, as a proposition. -/
theorem conflicts_iff {l : List (AccessorName × AccessKind)} {n : AccessorName} {k : AccessKind} :
    conflicts l n k = true ↔ ∃ e ∈ l, e.1 ≠ n ∧ (k = .write ∨ e.2 = .write) := by
  simp [conflicts]

/-- Where a transfer is recorded, and under which conditions of the context (R176). -/
theorem hazardPair_some_iff {c : Ctx} {p : Place} {h : HazardPair} :
    hazardPair c p = some h ↔
      (h = .el2 ∧ c.el = .el2 ∧ c.inHostEL2 = true ∧ p = .mair2El2) ∨
        (h = .el1 ∧ c.el = .el3 ∧ c.inHostEL2 = true ∧ p = .mair2El1) := by
  unfold hazardPair
  cases c.el <;> cases c.inHostEL2 <;> cases p <;> cases h <;> simp

/-- A transfer never faults: the exceptions come before, and instead of, it (R147). -/
theorem transferRead_ne_fault {n : AccessorName} {p : Place} {t : XReg} {s : State} {f : Fault} :
    transferRead n p t s ≠ .fault f := by
  unfold transferRead; split
  · simp
  · exact complete_ne_fault

theorem transferWrite_ne_fault {n : AccessorName} {p : Place} {t : XReg} {s : State} {f : Fault} :
    transferWrite n p t s ≠ .fault f := by
  unfold transferWrite; split
  · simp
  · exact complete_ne_fault

/-- An MRS that completes reached a place. -/
theorem performRead_next {n : AccessorName} {w : InsnWord} {v : Verdict} {t : XReg} {s s' : State}
    (h : performRead n w v t s = .next s') : ∃ p, v = .reach p ∧ transferRead n p t s = .next s' := by
  cases v with
  | undefined => cases h
  | trap g => cases h
  | reach p => exact ⟨p, rfl, h⟩

/-- An MSR that completes reached a place. -/
theorem performWrite_next {n : AccessorName} {w : InsnWord} {v : Verdict} {t : XReg} {s s' : State}
    (h : performWrite n w v t s = .next s') : ∃ p, v = .reach p ∧ transferWrite n p t s = .next s' := by
  cases v with
  | undefined => cases h
  | trap g => cases h
  | reach p => exact ⟨p, rfl, h⟩

/-- An MRS faults exactly as its chain of tests says (R140, R141). -/
theorem performRead_fault_iff {n : AccessorName} {w : InsnWord} {v : Verdict} {t : XReg} {s : State} {f : Fault} :
    performRead n w v t s = .fault f ↔
      (v = .undefined ∧ f = .undefined) ∨ ∃ g, v = .trap g ∧ f = .sysTrap g 0x18#8 w := by
  cases v with
  | undefined => simp [performRead, raiseUndefined, eq_comm]
  | trap g => simp [performRead, systemAccessTrap, eq_comm]
  | reach p => simp [performRead, transferRead_ne_fault]

/-- An MSR faults exactly as its chain of tests says (R140, R141). -/
theorem performWrite_fault_iff {n : AccessorName} {w : InsnWord} {v : Verdict} {t : XReg} {s : State} {f : Fault} :
    performWrite n w v t s = .fault f ↔
      (v = .undefined ∧ f = .undefined) ∨ ∃ g, v = .trap g ∧ f = .sysTrap g 0x18#8 w := by
  cases v with
  | undefined => simp [performWrite, raiseUndefined, eq_comm]
  | trap g => simp [performWrite, systemAccessTrap, eq_comm]
  | reach p => simp [performWrite, transferWrite_ne_fault]

/-- Everything the environment's step can do. -/
theorem environmentStep_some {s s' : State} (h : environmentStep s = some s') :
    s.pc ∈ s.syncPlaces ∧ s' = contextSync { s with syncPlaces := s.syncPlaces.erase s.pc } := by
  unfold environmentStep at h
  split at h
  · rename_i hc
    exact ⟨by simpa using hc, by simpa using h.symm⟩
  · cases h

theorem environmentStep_none {s : State} (h : s.pc ∉ s.syncPlaces) : environmentStep s = none := by
  unfold environmentStep
  rw [if_neg (by simpa using h)]

/-- Everything a step that answers a next state can do: an environment step, or a fetched instruction. -/
theorem step_next_cases {s s' : State} (h : step s = .next s') :
    (s.pc ∈ s.syncPlaces ∧ s' = contextSync { s with syncPlaces := s.syncPlaces.erase s.pc }) ∨
      ∃ i, environmentStep s = none ∧ fetch s = .ok i ∧ exec i s = .next s' := by
  unfold step at h
  split at h
  · rename_i s1 he
    cases h
    exact .inl (environmentStep_some he)
  · rename_i he
    split at h
    · rename_i i hf
      exact .inr ⟨i, he, hf, h⟩
    · cases h

end Sys2Proof.Machine
end

