-- ==== Sys2Proof/Laws/PerInstr.lean ====
section
/-! SUPPORT. The family EncodedForm: the word of each instruction is the match value of its row of
spec/opcode_table.json with the operand's number in bits [4:0] (30_encoding.md R86, R87). -/

namespace Sys2Proof.Laws

/-- The match value of an instruction's row (30_encoding.md R86). -/
def EncodedForm.matchValue : Instr → InsnWord
  | .mrsMair2El1 _ => 0xD538A220#32
  | .msrMair2El1 _ => 0xD518A220#32
  | .mrsMair2El12 _ => 0xD53DA220#32
  | .msrMair2El12 _ => 0xD51DA220#32
  | .mrsMair2El2 _ => 0xD53CA120#32
  | .msrMair2El2 _ => 0xD51CA120#32

/-- The word is the row's match value with the operand's field in its low bits. -/
def EncodedForm.Statement (i : Instr) : Prop :=
  encode i = EncodedForm.matchValue i ||| i.operand.toField.setWidth 32

theorem EncodedForm.ofField (k : AccessKind) (n : AccessorName) (f : BitVec 5) :
    sysMoveWord k n f = sysMoveWord k n 0#5 ||| f.setWidth 32 := by
  revert f; cases k <;> cases n <;> decide

theorem EncodedForm.mrsMair2El1 (t : XReg) : EncodedForm.Statement (.mrsMair2El1 t) :=
  EncodedForm.ofField .read .mair2El1 t.toField

theorem EncodedForm.msrMair2El1 (t : XReg) : EncodedForm.Statement (.msrMair2El1 t) :=
  EncodedForm.ofField .write .mair2El1 t.toField

theorem EncodedForm.mrsMair2El12 (t : XReg) : EncodedForm.Statement (.mrsMair2El12 t) :=
  EncodedForm.ofField .read .mair2El12 t.toField

theorem EncodedForm.msrMair2El12 (t : XReg) : EncodedForm.Statement (.msrMair2El12 t) :=
  EncodedForm.ofField .write .mair2El12 t.toField

theorem EncodedForm.mrsMair2El2 (t : XReg) : EncodedForm.Statement (.mrsMair2El2 t) :=
  EncodedForm.ofField .read .mair2El2 t.toField

theorem EncodedForm.msrMair2El2 (t : XReg) : EncodedForm.Statement (.msrMair2El2 t) :=
  EncodedForm.ofField .write .mair2El2 t.toField

end Sys2Proof.Laws
end

