-- ==== Sys2Proof/Tests/Slice0.lean ====
section
/-! SUPPORT. The model's own tests: expected results from spec/95_test_vectors.md and the rules named, and a witness for
the hypotheses of every statement. -/

namespace Sys2Proof.Tests

open Sys2Proof.Machine

/-! ### WellFormed: the one check, with an ill-formed term -/

theorem test_wellFormed_refuses_x31 : (XReg.x 31).wellFormed = false := by decide
theorem test_wellFormed_refuses_instr : (Instr.msrMair2El2 (.x 31)).wellFormed = false := by decide
theorem test_wellFormed_accepts : (XReg.x 30).wellFormed = true ∧ XReg.xzr.wellFormed = true := by decide

/-! ### Decoding: words written out bit by bit from 30_encoding.md R86's patterns -/

theorem test_decode_mrsMair2El1 :
    decode 0b11010101001110001010001000100101#32 = .ok (.mrsMair2El1 (.x 5)) := by decide
theorem test_decode_msrMair2El1 :
    decode 0b11010101000110001010001000111111#32 = .ok (.msrMair2El1 .xzr) := by decide
theorem test_decode_mrsMair2El12 :
    decode 0b11010101001111011010001000100000#32 = .ok (.mrsMair2El12 (.x 0)) := by decide
theorem test_decode_msrMair2El12 :
    decode 0b11010101000111011010001000101001#32 = .ok (.msrMair2El12 (.x 9)) := by decide
theorem test_decode_mrsMair2El2 :
    decode 0b11010101001111001010000100111101#32 = .ok (.mrsMair2El2 (.x 29)) := by decide
theorem test_decode_msrMair2El2 :
    decode 0b11010101000111001010000100111110#32 = .ok (.msrMair2El2 (.x 30)) := by decide

/-- 95_test_vectors.md section 2.1, near misses. -/
theorem test_decode_near_misses :
    [0xD538A200#32, 0xD538A120#32, 0xD53CA220#32, 0xD53EA220#32, 0xD530A220#32, 0xD578A220#32, 0xD5033FDF#32,
      0x00000000#32].all (fun w => decide (decode w = .error (.notInScope w))) = true := by decide

/-- 95_test_vectors.md section 2.1, bytes in ascending address order. -/
theorem test_decode_bytes :
    decodeBytes [0x20#8, 0xA1#8, 0x1C#8, 0xD5#8, 0x00#8] = .ok (.msrMair2El2 (.x 0), [0x00#8]) ∧
      decodeBytes [0x20#8, 0xA1#8, 0x1C#8] = .error .truncated := by decide

theorem test_decodeTableWord : decodeTableWord 32 0xD51DA220 = some (.msrMair2El12 (.x 0)) := by decide

/-- 30_encoding.md R86, the match values with `Rt = 0`. -/
theorem test_encode_matches :
    encode (.mrsMair2El1 (.x 0)) = 0xD538A220#32 ∧ encode (.msrMair2El1 (.x 0)) = 0xD518A220#32 ∧
      encode (.mrsMair2El12 (.x 0)) = 0xD53DA220#32 ∧ encode (.msrMair2El12 (.x 0)) = 0xD51DA220#32 ∧
      encode (.mrsMair2El2 (.x 0)) = 0xD53CA120#32 ∧ encode (.msrMair2El2 (.x 0)) = 0xD51CA120#32 := by decide

/-! ### 95_test_vectors.md sections 2.5 to 2.7 -/

/-- What a vector expects: an exception, or the place of the transfer. -/
inductive Expect where
  | undef
  | trap2
  | trap3
  | moves (p : Place)

/-- A state with distinct values everywhere, at an Exception level, with the base context and configuration changed. -/
def st (el : EL) (c : Ctx → Ctx := id) (g : Cfg → Cfg := id) : State :=
  { State.reset with
    cfg := g resetCfg
    ctx := c { resetCtx with el := el }
    regs := State.reset.regs.set 5 0x5555#64
    pc := 0x1000#64
    mair2El1 := 0xA1#64
    mair2El2 := 0xB2#64
    nvmem280 := 0xC3#64 }

/-- The value held in a place. -/
def held (p : Place) (s : State) : Word :=
  match p with
  | .mair2El1 => s.mair2El1
  | .mair2El2 => s.mair2El2
  | .nvmem280 => s.nvmem280

/-- The outcome of `i`, whose operand is X5, is the one expected. -/
def sees (i : Instr) (s : State) (e : Expect) : Bool :=
  match exec i s, e with
  | .fault .undefined, .undef => true
  | .fault (.sysTrap .el2 c w), .trap2 => decide (c = 0x18#8) && decide (w = encode i)
  | .fault (.sysTrap .el3 c w), .trap3 => decide (c = 0x18#8) && decide (w = encode i)
  | .next s', .moves p =>
    decide (s'.pc = s.pc + 4#64) &&
      match i.kind with
      | .read => decide (s'.regs = s.regs.set 5 (held p s)) &&
          [Place.mair2El1, .mair2El2, .nvmem280].all (fun q => decide (held q s' = held q s))
      | .write => decide (held p s' = readX (.x 5) s) && decide (s'.regs = s.regs) &&
          [Place.mair2El1, .mair2El2, .nvmem280].all (fun q => decide (q = p) || decide (held q s' = held q s))
  | _, _ => false

/-- Vectors A1 to A49. -/
def vectorsMair2El1 : List (Instr × State × Expect) :=
  let r : Instr := .mrsMair2El1 (.x 5)
  let w : Instr := .msrMair2El1 (.x 5)
  [ (r, st .el3 id ({ · with featAIE := false }), .undef), (r, st .el3 id ({ · with featAA64 := false }), .undef),
    (r, st .el0, .undef), (w, st .el0, .undef), (r, st .el1, .moves .mair2El1), (w, st .el1, .moves .mair2El1),
    (r, st .el1 ({ · with hcrTRVM := true }), .trap2), (w, st .el1 ({ · with hcrTRVM := true }), .moves .mair2El1),
    (w, st .el1 ({ · with hcrTVM := true }), .trap2), (r, st .el1 ({ · with hcrTVM := true }), .moves .mair2El1),
    (r, st .el1 ({ · with el2Enabled := false, hcrTRVM := true }), .moves .mair2El1),
    (r, st .el1 ({ · with fgtR := false }), .trap2), (w, st .el1 ({ · with fgtR := false }), .moves .mair2El1),
    (w, st .el1 ({ · with fgtW := false }), .trap2),
    (r, st .el1 ({ · with scrFGTEn := false, fgtR := false }), .moves .mair2El1),
    (r, st .el1 ({ · with scrFGTEn := false, fgtR := false }) ({ · with haveEL3 := false }), .trap2),
    (r, st .el1 ({ · with fgtR := false }) ({ · with featFGT := false }), .moves .mair2El1),
    (r, st .el1 ({ · with el2Enabled := false, fgtR := false }), .moves .mair2El1),
    (r, st .el1 ({ · with scrAIEn := false }), .trap3), (w, st .el1 ({ · with scrAIEn := false }), .trap3),
    (r, st .el1 ({ · with sddUndef := true, scrAIEn := false }), .undef),
    (r, st .el1 ({ · with scrAIEn := false, hcrTRVM := true }), .trap2),
    (r, st .el1 ({ · with sddPrio := true, scrAIEn := false, hcrTRVM := true }), .undef),
    (r, st .el1 ({ · with sddUndef := true, scrAIEn := false, hcrTRVM := true }), .trap2),
    (r, st .el1 ({ · with sddPrio := true, scrAIEn := false, fgtR := false }), .undef),
    (r, st .el1 ({ · with sddPrio := true, sddUndef := true }), .moves .mair2El1),
    (r, st .el1 ({ · with sddPrio := true, sddUndef := true, scrAIEn := false }) ({ · with haveEL3 := false }),
      .moves .mair2El1),
    (r, st .el1 ({ · with nvx := 0b111#3 }), .moves .nvmem280),
    (w, st .el1 ({ · with nvx := 0b111#3 }), .moves .nvmem280),
    (r, st .el1 ({ · with nvx := 0b101#3 }), .moves .mair2El1),
    (r, st .el1 ({ · with nvx := 0b011#3 }), .moves .mair2El1),
    (r, st .el1 ({ · with nvx := 0b001#3 }), .moves .mair2El1),
    (r, st .el1 ({ · with nvx := 0b110#3 }), .moves .mair2El1),
    (r, st .el1 ({ · with scrAIEn := false, nvx := 0b111#3 }), .trap3),
    (r, st .el1 ({ · with hcrTRVM := true, nvx := 0b111#3 }), .trap2),
    (r, st .el1 ({ · with el2Enabled := false, nvx := 0b111#3 }), .moves .nvmem280),
    (r, st .el1 ({ · with inHostEL2 := true }), .moves .mair2El1),
    (r, st .el2, .moves .mair2El1), (w, st .el2, .moves .mair2El1),
    (r, st .el2 ({ · with inHostEL2 := true }), .moves .mair2El2),
    (w, st .el2 ({ · with inHostEL2 := true }), .moves .mair2El2),
    (r, st .el2 ({ · with scrAIEn := false, inHostEL2 := true }), .trap3),
    (r, st .el2 ({ · with sddPrio := true, scrAIEn := false }), .undef),
    (r, st .el2 ({ · with sddUndef := true, scrAIEn := false }), .undef),
    (r, st .el2 ({ · with sddPrio := true, sddUndef := true, scrAIEn := false }) ({ · with haveEL3 := false }),
      .moves .mair2El1),
    (r, st .el2 ({ · with hcrTRVM := true, fgtR := false, nvx := 0b111#3 }), .moves .mair2El1),
    (w, st .el2 ({ · with hcrTVM := true, fgtW := false, nvx := 0b111#3 }), .moves .mair2El1),
    (r, st .el3 (fun c => { c with
        sddPrio := true, sddUndef := true, scrAIEn := false, hcrTRVM := true, fgtR := false, nvx := 0b111#3, inHostEL2 := true }),
      .moves .mair2El1),
    (w, st .el3 (fun c => { c with
        sddPrio := true, sddUndef := true, scrAIEn := false, hcrTVM := true, fgtW := false, nvx := 0b111#3, inHostEL2 := true }),
      .moves .mair2El1) ]

/-- Vectors B1 to B30. -/
def vectorsMair2El12 : List (Instr × State × Expect) :=
  let r : Instr := .mrsMair2El12 (.x 5)
  let w : Instr := .msrMair2El12 (.x 5)
  [ (r, st .el3 ({ · with inHostEL2 := true }) ({ · with featAIE := false }), .undef),
    (w, st .el2 ({ · with inHostEL2 := true }) ({ · with featAA64 := false }), .undef),
    (r, st .el0 ({ · with inHostEL2 := true }), .undef), (w, st .el0, .undef), (r, st .el1, .undef),
    (r, st .el1 ({ · with nvx := 0b001#3 }), .trap2), (r, st .el1 ({ · with nvx := 0b010#3 }), .undef),
    (r, st .el1 ({ · with nvx := 0b011#3 }), .trap2), (r, st .el1 ({ · with nvx := 0b100#3 }), .undef),
    (r, st .el1 ({ · with nvx := 0b101#3 }), .moves .nvmem280), (r, st .el1 ({ · with nvx := 0b110#3 }), .undef),
    (r, st .el1 ({ · with nvx := 0b111#3 }), .trap2), (w, st .el1 ({ · with nvx := 0b101#3 }), .moves .nvmem280),
    (w, st .el1 ({ · with nvx := 0b111#3 }), .trap2), (w, st .el1 ({ · with nvx := 0b100#3 }), .undef),
    (w, st .el1 (fun c => { c with
        sddPrio := true, sddUndef := true, scrAIEn := false, hcrTVM := true, fgtW := false, nvx := 0b101#3 }),
      .moves .nvmem280),
    (r, st .el1 ({ · with el2Enabled := false, nvx := 0b101#3 }), .moves .nvmem280),
    (r, st .el2, .undef), (r, st .el2 ({ · with scrAIEn := false }), .undef),
    (r, st .el2 ({ · with inHostEL2 := true }), .moves .mair2El1),
    (w, st .el2 ({ · with inHostEL2 := true }), .moves .mair2El1),
    (r, st .el2 ({ · with scrAIEn := false, inHostEL2 := true }), .trap3),
    (r, st .el2 ({ · with sddUndef := true, scrAIEn := false, inHostEL2 := true }), .undef),
    (r, st .el2 ({ · with sddPrio := true, scrAIEn := false, inHostEL2 := true }), .undef),
    (r, st .el2 ({ · with scrAIEn := false, inHostEL2 := true }) ({ · with haveEL3 := false }), .moves .mair2El1),
    (r, st .el2 ({ · with nvx := 0b101#3, inHostEL2 := true }), .moves .mair2El1),
    (r, st .el3, .undef), (w, st .el3, .undef),
    (r, st .el3 ({ · with scrAIEn := false, inHostEL2 := true }), .moves .mair2El1),
    (w, st .el3 ({ · with sddPrio := true, sddUndef := true, scrAIEn := false, inHostEL2 := true }),
      .moves .mair2El1) ]

/-- Vectors C1 to C26. -/
def vectorsMair2El2 : List (Instr × State × Expect) :=
  let r : Instr := .mrsMair2El2 (.x 5)
  let w : Instr := .msrMair2El2 (.x 5)
  [ (r, st .el3 id ({ · with featAIE := false }), .undef), (w, st .el2 id ({ · with featAA64 := false }), .undef),
    (r, st .el0, .undef), (w, st .el0, .undef), (r, st .el1, .undef),
    (r, st .el1 ({ · with nvx := 0b001#3 }), .trap2), (r, st .el1 ({ · with nvx := 0b010#3 }), .undef),
    (r, st .el1 ({ · with nvx := 0b011#3 }), .trap2), (r, st .el1 ({ · with nvx := 0b100#3 }), .undef),
    (r, st .el1 ({ · with nvx := 0b101#3 }), .trap2), (r, st .el1 ({ · with nvx := 0b110#3 }), .undef),
    (r, st .el1 ({ · with nvx := 0b111#3 }), .trap2), (w, st .el1 ({ · with nvx := 0b001#3 }), .trap2),
    (w, st .el1, .undef), (r, st .el1 ({ · with sddPrio := true, scrAIEn := false, nvx := 0b001#3 }), .trap2),
    (r, st .el2, .moves .mair2El2), (w, st .el2, .moves .mair2El2),
    (w, st .el2 ({ · with inHostEL2 := true }), .moves .mair2El2),
    (r, st .el2 ({ · with scrAIEn := false }), .trap3), (w, st .el2 ({ · with scrAIEn := false }), .trap3),
    (r, st .el2 ({ · with sddUndef := true, scrAIEn := false }), .undef),
    (r, st .el2 ({ · with sddPrio := true, scrAIEn := false }), .undef),
    (r, st .el2 ({ · with scrAIEn := false }) ({ · with haveEL3 := false }), .moves .mair2El2),
    (r, st .el2 ({ · with hcrTRVM := true, fgtR := false, nvx := 0b111#3 }), .moves .mair2El2),
    (r, st .el3 ({ · with scrAIEn := false }), .moves .mair2El2),
    (w, st .el3 ({ · with sddPrio := true, sddUndef := true, scrAIEn := false }), .moves .mair2El2) ]

theorem test_vectors_mair2El1 : vectorsMair2El1.all (fun v => sees v.1 v.2.1 v.2.2) = true := by decide
theorem test_vectors_mair2El12 : vectorsMair2El12.all (fun v => sees v.1 v.2.1 v.2.2) = true := by decide
theorem test_vectors_mair2El2 : vectorsMair2El2.all (fun v => sees v.1 v.2.1 v.2.2) = true := by decide

/-! ### 95_test_vectors.md section 2.9 and the hazard vectors of section 2.10, one step each -/

/-- What a completed outcome satisfies. -/
def after (o : StepOutcome) (f : State → Bool) : Bool :=
  match o with
  | .next s => f s
  | .fault _ => false
  | .refused _ => false

/-- An outcome refused for `r`. -/
def refusedFor (o : StepOutcome) (r : Refusal) : Bool :=
  match o with
  | .next _ => false
  | .fault _ => false
  | .refused r' => decide (r' = r)

/-- V4: `MSR MAIR2_EL1, XZR` writes zero. -/
theorem test_msr_xzr_writes_zero :
    after (exec (.msrMair2El1 .xzr) (st .el1)) (fun s => decide (s.mair2El1 = 0#64)) = true := by decide

/-- V5: `MRS XZR, MAIR2_EL1` changes no general register. -/
theorem test_mrs_xzr_discards :
    after (exec (.mrsMair2El1 .xzr) (st .el1)) (fun s => decide (s.regs = (st .el1).regs)) = true := by decide

/-- V10, V11: RES0 from EL3 without EL2, both behaviours. -/
theorem test_res0 :
    after (exec (.mrsMair2El2 (.x 1)) (st .el3 id ({ · with haveEL2 := false })))
        (fun s => decide (readX (.x 1) s = 0#64)) = true ∧
      after (exec (.msrMair2El2 (.x 5)) (st .el3 id ({ · with haveEL2 := false })))
        (fun s => decide (s.mair2El2 = 0xB2#64)) = true ∧
      after (exec (.msrMair2El2 (.x 5)) (st .el3 id ({ · with haveEL2 := false, res0Mode := .storage })))
        (fun s => decide (s.mair2El2 = 0x5555#64)) = true := by decide

/-- 10_state.md R28: the last word of the address space does not complete. -/
theorem test_pc_wrap_refused :
    refusedFor (exec (.mrsMair2El1 (.x 5)) { st .el3 with pc := 0xFFFFFFFFFFFFFFFC#64 }) .pcWrap = true ∧
      after (exec (.mrsMair2El1 (.x 5)) { st .el3 with pc := 0xFFFFFFFFFFFFFFF8#64 })
        (fun s => decide (s.pc = 0xFFFFFFFFFFFFFFFC#64)) = true := by decide

/-- The record of accesses in program order to a register that holds `v` throughout. -/
def recorded (l : List (AccessorName × AccessKind)) (v : Word) : Unsync :=
  if l = [] then { accesses := [], effects := [] }
  else
    { accesses := l
      effects := (l.reverse.map fun e => { source := some e.1, kind := e.2, value := v }) ++
        [{ source := none, kind := .write, value := v }] }

/-- EL2 in host mode with accesses recorded. -/
def hostEl2 (mode : CrossNameMode) (l : List (AccessorName × AccessKind)) : State :=
  { st .el2 ({ · with inHostEL2 := true }) ({ · with crossName := mode }) with unsyncEL2 := recorded l 0xB2#64 }

/-- EL3 with EL2 in host mode with accesses recorded. -/
def hostEl3 (mode : CrossNameMode) (l : List (AccessorName × AccessKind)) : State :=
  { st .el3 ({ · with inHostEL2 := true }) ({ · with crossName := mode }) with unsyncEL1 := recorded l 0xA1#64 }

/-- H2, H5, H6, H8: a cross-name access with a write on either side is refused. -/
theorem test_hazard_refused :
    refusedFor (exec (.mrsMair2El2 (.x 1)) (hostEl2 .refuse [(.mair2El1, .write)]))
        .unsynchronisedCrossNameAccess = true ∧
      refusedFor (exec (.msrMair2El1 (.x 5)) (hostEl2 .refuse [(.mair2El2, .read)]))
        .unsynchronisedCrossNameAccess = true ∧
      refusedFor (exec (.msrMair2El1 (.x 5)) (hostEl2 .refuse [(.mair2El2, .write)]))
        .unsynchronisedCrossNameAccess = true ∧
      refusedFor (exec (.mrsMair2El1 (.x 1)) (hostEl3 .refuse [(.mair2El12, .write)]))
        .unsynchronisedCrossNameAccess = true := by decide

/-- H1, H4: the same name, or two reads, complete and are recorded. -/
theorem test_hazard_not_met :
    after (exec (.mrsMair2El1 (.x 1)) (hostEl2 .refuse [(.mair2El1, .write)]))
        (fun s => decide (s.unsyncEL2.accesses = [(.mair2El1, .write), (.mair2El1, .read)])) = true ∧
      after (exec (.mrsMair2El2 (.x 2)) (hostEl2 .refuse [(.mair2El1, .read)]))
        (fun s => decide (readX (.x 2) s = 0xB2#64)) = true := by decide

/-- H3: a `ContextSync` empties the record. -/
theorem test_context_sync :
    after (step { hostEl2 .refuse [(.mair2El1, .write)] with syncPlaces := [0x1000#64] })
      (fun s => decide (s.unsyncEL2.accesses = []) && decide (s.syncPlaces = []) && decide (s.pc = 0x1000#64)) =
      true := by decide

/-- R70 in the race: after `MSR MAIR2_EL1` (of 1) and `MRS MAIR2_EL2`, a second `MSR MAIR2_EL1` takes effect last; after
two `MSR MAIR2_EL1` (of 1, then of 2) from 0, `MRS MAIR2_EL2` may return 2, 1 or 0, and once it has returned 1, the next
one 2 or 1. -/
theorem test_race_positions :
    writePositions .mair2El1
        [⟨some .mair2El2, .read, 1#64⟩, ⟨some .mair2El1, .write, 1#64⟩, ⟨none, .write, 0#64⟩] = [0] ∧
      (readPositions .mair2El2
          [⟨some .mair2El1, .write, 2#64⟩, ⟨some .mair2El1, .write, 1#64⟩, ⟨none, .write, 0#64⟩]).map
        (valueAt [⟨some .mair2El1, .write, 2#64⟩, ⟨some .mair2El1, .write, 1#64⟩, ⟨none, .write, 0#64⟩] 2#64) =
        [2#64, 1#64, 0#64] ∧
      (readPositions .mair2El2
          [⟨some .mair2El1, .write, 2#64⟩, ⟨some .mair2El2, .read, 1#64⟩, ⟨some .mair2El1, .write, 1#64⟩,
            ⟨none, .write, 0#64⟩]).map
        (valueAt [⟨some .mair2El1, .write, 2#64⟩, ⟨some .mair2El2, .read, 1#64⟩, ⟨some .mair2El1, .write, 1#64⟩,
            ⟨none, .write, 0#64⟩] 2#64) = [2#64, 1#64] := by decide

/-- A raced write may take effect before a later write of the other name, not before a read that has its value. -/
theorem test_race_write_positions :
    writePositions .mair2El2
        [⟨some .mair2El1, .read, 2#64⟩, ⟨some .mair2El1, .write, 2#64⟩, ⟨some .mair2El1, .write, 1#64⟩,
          ⟨none, .write, 0#64⟩] = [0, 2, 3] := by decide

/-! ### Attributes and syndrome (95_test_vectors.md sections 2.2 to 2.4, 60_exceptions.md R141) -/

theorem test_attr_fields :
    (List.range 8).map (attrField 0xFF44BB0C0400F0A0#64) =
      [0xA0#8, 0xF0#8, 0x00#8, 0x04#8, 0x0C#8, 0xBB#8, 0x44#8, 0xFF#8] := by decide

theorem test_select :
    selectAttr 0xFF44BB0C0400F0A0#64 true 0b1101#4 = some 0xBB#8 ∧
      selectAttr 0xFF44BB0C0400F0A0#64 true 0b0111#4 = none ∧
      selectAttr 0xFF44BB0C0400F0A0#64 false 0b1111#4 = none := by decide

theorem test_decodeAttr :
    decodeAttr 0xC5#8 true true = .normal (.wb false false false) (.wb true false true) false true ∧
      decodeAttr 0x1F#8 true true = .normal (.wt true false true) (.wb false true true) false false ∧
      decodeAttr 0x0D#8 true false = .device .GRE true ∧ decodeAttr 0x0D#8 false false = .unpredictable ∧
      decodeAttr 0xF0#8 false true = .normal (.wb false true true) (.wb false true true) true false := by decide

/-- The numbers of Unpredictable values and of values whose XS attribute is fixed at 0, both features. -/
theorem test_attr_counts :
    ((List.range 256).filter fun a => decide (decodeAttr (BitVec.ofNat 8 a) true true = .unpredictable)).length = 20 ∧
      ((List.range 256).filter fun a => decide (decodeAttr (BitVec.ofNat 8 a) false false = .unpredictable)).length =
        27 := by decide

theorem test_syndrome :
    trapISS 0xD51CA120#32 = 0x332802#25 ∧ trapESR 0x18#8 0xD518A229#32 = 0x62322924#32 := by decide

/-! ### The first step after reset -/

theorem test_first_step :
    after (step (State.reset.withFetchWord 32 0xD538A225)) (fun s => decide (s.pc = 4#64)) = true := by decide

/-- P6: a word outside the spec. -/
theorem test_word_out_of_scope :
    refusedFor (step (State.reset.withFetchWord 32 0xD538A200)) (.notInScope 0xD538A200#32) = true := by decide

/-! ### Witnesses: the hypotheses of every statement that has some are met together -/

theorem witness_decodeOfEncode :
    (Instr.mrsMair2El1 (.x 30)).WellFormed ∧ (Instr.msrMair2El2 .xzr).WellFormed := by decide

theorem witness_encodeOfDecode : decode 0xD538A23F#32 = .ok (.mrsMair2El1 .xzr) := by decide

theorem witness_encodedWordCarriesTheTuple : (XReg.x 30).WellFormed := by decide

/-- X5 is loaded from MAIR2_EL1 as the first instruction after reset. -/
def loaded : State := State.reset.withFetchWord 32 0xD538A225

theorem witness_stepRuns :
    loaded.pc ∉ loaded.syncPlaces ∧ loaded.pc.toNat % 4 = 0 ∧ Memory.read loaded.mem loaded.pc.toNat = some 0x25#8 ∧
      Memory.read loaded.mem (loaded.pc.toNat + 1) = some 0xA2#8 ∧
      Memory.read loaded.mem (loaded.pc.toNat + 2) = some 0x38#8 ∧
      Memory.read loaded.mem (loaded.pc.toNat + 3) = some 0xD5#8 ∧ (Instr.mrsMair2El1 (.x 5)).WellFormed ∧
      decode (0xD5#8 ++ 0x38#8 ++ 0xA2#8 ++ 0x25#8) = .ok (.mrsMair2El1 (.x 5)) := by decide

theorem witness_contextSync :
    (0x1000#64 : Word) ∈ ({ st .el2 with syncPlaces := [0x1000#64, 0x1000#64] } : State).syncPlaces := by decide

theorem witness_stepRefuses_misaligned :
    ({ st .el2 with pc := 2#64 } : State).pc ∉ (st .el2).syncPlaces ∧ (2#64 : Word).toNat % 4 ≠ 0 := by decide

theorem witness_stepRefuses_outside :
    (st .el2).pc ∉ (st .el2).syncPlaces ∧ (st .el2).pc.toNat % 4 = 0 ∧
      Memory.read (st .el2).mem ((st .el2).pc.toNat + 3) = none := by decide

theorem witness_stepRefuses_word :
    (State.reset.withFetchWord 32 0).pc.toNat % 4 = 0 ∧
      Memory.read (State.reset.withFetchWord 32 0).mem 3 = some 0#8 ∧
      decode (0#8 ++ 0#8 ++ 0#8 ++ 0#8) = .error (.notInScope 0#32) := by decide

theorem witness_placedWord : decode 0xD51CA120#32 = .ok (.msrMair2El2 (.x 0)) := by decide

theorem witness_trapRecords :
    exec (.msrMair2El1 (.x 9)) (st .el1 ({ · with scrAIEn := false })) =
      .fault (.sysTrap .el3 0x18#8 0xD518A229#32) := rfl

theorem witness_refusal_hazard :
    exec (.mrsMair2El2 (.x 1)) (hostEl2 .refuse [(.mair2El1, .write)]) =
      .refused .unsynchronisedCrossNameAccess := rfl

theorem witness_refusal_wrap :
    exec (.mrsMair2El1 (.x 1)) { st .el3 with pc := 0xFFFFFFFFFFFFFFFC#64 } = .refused .pcWrap := rfl

/-- The last instruction address, at EL3. -/
def top : State := { st .el3 with pc := 0xFFFFFFFFFFFFFFFC#64 }

theorem witness_wrapAround :
    ¬ PcHasRoom top ∧ ¬ UndefinedCause (.mrsMair2El1 (.x 1)) top ∧ ¬ TrapEl2Cause (.mrsMair2El1 (.x 1)) top ∧
      ¬ TrapEl3Cause (.mrsMair2El1 (.x 1)) top ∧ NoHazard .mair2El1 .read top := by
  refine ⟨by decide, ?_, ?_, ?_, by decide⟩
  · rintro (h | h | h)
    · exact h (by decide)
    · cases h
    · exact h
  · exact fun h => h.2
  · exact fun h => h.2.2.2.2

/-- EL1, nested virtualisation under the name MAIR2_EL1: clause (2f). -/
theorem witness_mair2El1Completes_nested :
    (XReg.x 30).WellFormed ∧ Present (st .el1 ({ · with nvx := 0b111#3 })) ∧
      PcHasRoom (st .el1 ({ · with nvx := 0b111#3 })) ∧ (st .el1 ({ · with nvx := 0b111#3 })).ctx.el ≠ .el0 ∧
      ¬ El2TrapsRead (st .el1 ({ · with nvx := 0b111#3 })) ∧ ¬ El2TrapsWrite (st .el1 ({ · with nvx := 0b111#3 })) ∧
      ¬ AieOff (st .el1 ({ · with nvx := 0b111#3 })) ∧
      NoHazard .mair2El1 .read (st .el1 ({ · with nvx := 0b111#3 })) ∧
      NoHazard .mair2El1 .write (st .el1 ({ · with nvx := 0b111#3 })) := by
  and_intros <;> decide

/-- EL2 in host mode, accesses of the same name recorded: clause (3d). -/
theorem witness_mair2El1Completes_host :
    Present (hostEl2 .refuse [(.mair2El1, .write)]) ∧
      PcHasRoom (hostEl2 .refuse [(.mair2El1, .write)]) ∧
      ¬ AieOff (hostEl2 .refuse [(.mair2El1, .write)]) ∧
      NoHazard .mair2El1 .read (hostEl2 .refuse [(.mair2El1, .write)]) ∧
      NoHazard .mair2El1 .write (hostEl2 .refuse [(.mair2El1, .write)]) := by
  and_intros <;> decide

/-- EL3 and the other clauses of the six completion statements. -/
theorem witness_mair2El1Completes_el3 :
    Present (st .el3) ∧ PcHasRoom (st .el3) ∧ (st .el3).ctx.el ≠ .el0 ∧ NoHazard .mair2El1 .read (st .el3) ∧
      NoHazard .mair2El1 .write (st .el3) := by
  and_intros <;> decide

theorem witness_mair2El12Completes :
    (Mair2El12Reaches (st .el1 ({ · with nvx := 0b101#3 })) ∧ Present (st .el1 ({ · with nvx := 0b101#3 })) ∧
        PcHasRoom (st .el1 ({ · with nvx := 0b101#3 })) ∧
        NoHazard .mair2El12 .write (st .el1 ({ · with nvx := 0b101#3 }))) ∧
      (Mair2El12Reaches (hostEl2 .refuse []) ∧ Present (hostEl2 .refuse []) ∧ PcHasRoom (hostEl2 .refuse []) ∧
        NoHazard .mair2El12 .write (hostEl2 .refuse [])) ∧
      (Mair2El12Reaches (hostEl3 .refuse [(.mair2El12, .write)]) ∧
        NoHazard .mair2El12 .read (hostEl3 .refuse [(.mair2El12, .write)]) ∧
        NoHazard .mair2El12 .write (hostEl3 .refuse [(.mair2El12, .write)])) := by
  and_intros <;> decide

theorem witness_mair2El2Completes :
    (Mair2El2Reaches (hostEl2 .refuse []) ∧ Present (hostEl2 .refuse []) ∧ PcHasRoom (hostEl2 .refuse []) ∧
        NoHazard .mair2El2 .read (hostEl2 .refuse []) ∧ NoHazard .mair2El2 .write (hostEl2 .refuse [])) ∧
      (Mair2El2Reaches (st .el3) ∧ NoHazard .mair2El2 .write (st .el3)) ∧
      (Mair2El2Reaches (st .el3 id ({ · with haveEL2 := false })) ∧
        NoHazard .mair2El2 .read (st .el3 id ({ · with haveEL2 := false }))) := by
  and_intros <;> decide

/-- Each exception has a cause for each name. -/
theorem witness_causes (t : XReg) :
    (UndefinedCause (.mrsMair2El1 t) (st .el0) ∧ UndefinedCause (.msrMair2El12 t) (st .el0) ∧
        UndefinedCause (.mrsMair2El2 t) (st .el0)) ∧
      (TrapEl2Cause (.mrsMair2El1 t) (st .el1 ({ · with hcrTRVM := true })) ∧
        TrapEl2Cause (.msrMair2El1 t) (st .el1 ({ · with fgtW := false })) ∧
        TrapEl2Cause (.mrsMair2El12 t) (st .el1 ({ · with nvx := 0b111#3 })) ∧
        TrapEl2Cause (.msrMair2El2 t) (st .el1 ({ · with nvx := 0b101#3 }))) ∧
      (TrapEl3Cause (.mrsMair2El1 t) (st .el2 ({ · with scrAIEn := false })) ∧
        TrapEl3Cause (.msrMair2El1 t) (st .el1 ({ · with scrAIEn := false })) ∧
        TrapEl3Cause (.mrsMair2El12 t) (st .el2 ({ · with scrAIEn := false, inHostEL2 := true })) ∧
        TrapEl3Cause (.msrMair2El2 t) (st .el2 ({ · with scrAIEn := false }))) := by
  refine ⟨⟨?_, ?_, ?_⟩, ⟨?_, ?_, ?_, ?_⟩, ?_, ?_, ?_, ?_⟩ <;>
    simp [UndefinedCause, TrapEl2Cause, TrapEl3Cause, El2Traps, El2TrapsRead, El2TrapsWrite, NvxBit0, Present,
      AieOff, Instr.name, Instr.kind,
      st, resetCfg, resetCtx]

theorem witness_res0 :
    Present (st .el3 id ({ · with haveEL2 := false })) ∧ PcHasRoom (st .el3 id ({ · with haveEL2 := false })) ∧
      Res0Access (st .el3 id ({ · with haveEL2 := false })) ∧
      Res0Access (st .el3 id ({ · with haveEL2 := false, res0Mode := .storage })) := by decide

theorem witness_mrsFrame :
    (Instr.mrsMair2El12 (.x 5)).kind = .read ∧
      ∃ s', exec (.mrsMair2El12 (.x 5)) (hostEl3 .refuse []) = .next s' := ⟨rfl, _, rfl⟩

theorem witness_msrFrame :
    (Instr.msrMair2El12 (.x 5)).kind = .write ∧
      ∃ s', exec (.msrMair2El12 (.x 5)) (st .el1 ({ · with nvx := 0b101#3 })) = .next s' := ⟨rfl, _, rfl⟩

theorem witness_registerThirtyOne :
    readX (.x 7) (st .el3) = 0#64 ∧ (∃ s', exec (.msrMair2El1 .xzr) (st .el3) = .next s') ∧
      (∃ s', exec (.mrsMair2El1 .xzr) (st .el3) = .next s') ∧ (∃ s', exec (.mrsMair2El2 .xzr) (st .el3) = .next s') ∧
      ∃ s', exec (.mrsMair2El12 .xzr) (hostEl3 .refuse []) = .next s' := ⟨by decide, ⟨_, rfl⟩, ⟨_, rfl⟩, ⟨_, rfl⟩, _, rfl⟩

theorem witness_generalRegisters : (30 : Nat) ≤ 30 ∧ XReg.x 30 ≠ .xzr := by decide

/-- The state with one access recorded under the race meets the invariant, at EL2 and at EL3. -/
theorem race_states_inv :
    Inv (hostEl2 .race [(.mair2El1, .write)]) ∧ Inv (hostEl3 .race [(.mair2El12, .write)]) := by
  refine ⟨⟨by decide, by decide, ⟨fun _ => by decide, by decide, by decide, fun _ => ⟨?_, by decide, ?_⟩, nofun⟩,
      fun h => absurd rfl h, nofun, fun _ => rfl, fun h => absurd rfl h, nofun⟩,
    ⟨by decide, by decide, ⟨fun h => absurd rfl h, nofun, fun _ => rfl, fun h => absurd rfl h, nofun⟩,
      fun _ => by decide, by decide, by decide, fun _ => ⟨?_, by decide, ?_⟩, nofun⟩⟩
  · exact ⟨nofun, nofun, rfl, rfl⟩
  · intro n; cases n <;> rfl
  · exact ⟨nofun, nofun, rfl, rfl⟩
  · intro n; cases n <;> rfl

theorem witness_sameName :
    (hostEl2 .refuse []).cfg.crossName = .refuse ∧ ¬ Res0Access (st .el3) ∧
      (Instr.mrsMair2El1 (.x 1)).WellFormed ∧
      ∃ s1 s2, exec (.msrMair2El1 (.x 5)) (hostEl2 .refuse []) = .next s1 ∧
        exec (.mrsMair2El1 (.x 1)) s1 = .next s2 := ⟨rfl, by decide, by decide, _, _, rfl, rfl⟩

/-- Under the race, with an access of the same name recorded. -/
theorem witness_sameName_raced :
    Inv (hostEl2 .race [(.mair2El1, .write)]) ∧ NoHazard .mair2El1 .read (hostEl2 .race [(.mair2El1, .write)]) ∧
      ∃ s1 s2, exec (.msrMair2El1 (.x 5)) (hostEl2 .race [(.mair2El1, .write)]) = .next s1 ∧
        exec (.mrsMair2El1 (.x 1)) s1 = .next s2 := ⟨race_states_inv.1, by decide, _, _, rfl, rfl⟩

theorem witness_crossNameAtEl2 :
    (hostEl2 .refuse [(.mair2El1, .write)]).cfg.crossName = .refuse ∧
      Present (hostEl2 .refuse [(.mair2El1, .write)]) ∧
      PcHasRoom (hostEl2 .refuse [(.mair2El1, .write)]) ∧
      ¬ AieOff (hostEl2 .refuse [(.mair2El1, .write)]) ∧
      HostAtEl2 (hostEl2 .refuse [(.mair2El1, .write)]) ∧
      CrossNameConflict [(.mair2El1, .write)] .mair2El2 .read ∧
      ¬ CrossNameConflict [(.mair2El1, .write)] .mair2El1 .write := by decide

theorem witness_crossNameAtEl3 :
    (hostEl3 .refuse [(.mair2El12, .read)]).cfg.crossName = .refuse ∧
      Present (hostEl3 .refuse [(.mair2El12, .read)]) ∧ PcHasRoom (hostEl3 .refuse [(.mair2El12, .read)]) ∧
      HostAtEl3 (hostEl3 .refuse [(.mair2El12, .read)]) ∧ CrossNameConflict [(.mair2El12, .read)] .mair2El1 .write ∧
      ¬ CrossNameConflict [(.mair2El12, .read)] .mair2El1 .read := by decide

theorem witness_racing :
    ((hostEl2 .race [(.mair2El1, .write)]).cfg.crossName = .race ∧
        Present (hostEl2 .race [(.mair2El1, .write)]) ∧ PcHasRoom (hostEl2 .race [(.mair2El1, .write)]) ∧
        ¬ AieOff (hostEl2 .race [(.mair2El1, .write)]) ∧ HostAtEl2 (hostEl2 .race [(.mair2El1, .write)]) ∧
        Inv (hostEl2 .race [(.mair2El1, .write)]) ∧ CrossNameConflict [(.mair2El1, .write)] .mair2El2 .read ∧
        CrossNameConflict [(.mair2El1, .write)] .mair2El2 .write) ∧
      ((hostEl3 .race [(.mair2El12, .write)]).cfg.crossName = .race ∧
        Present (hostEl3 .race [(.mair2El12, .write)]) ∧ PcHasRoom (hostEl3 .race [(.mair2El12, .write)]) ∧
        HostAtEl3 (hostEl3 .race [(.mair2El12, .write)]) ∧ Inv (hostEl3 .race [(.mair2El12, .write)]) ∧
        CrossNameConflict [(.mair2El12, .write)] .mair2El1 .read ∧
        CrossNameConflict [(.mair2El12, .write)] .mair2El1 .write) :=
  ⟨⟨by decide, by decide, by decide, by decide, by decide, race_states_inv.1, by decide, by decide⟩,
    by decide, by decide, by decide, by decide, race_states_inv.2, by decide, by decide⟩

/-- Where a conflicting access races, the wrap-around is refused all the same. -/
theorem witness_wrapAround_raced :
    (hostEl2 .race [(.mair2El1, .write)]).cfg.crossName = .race ∧
      ¬ PcHasRoom { hostEl2 .race [(.mair2El1, .write)] with pc := 0xFFFFFFFFFFFFFFFC#64 } ∧
      ¬ UndefinedCause (.mrsMair2El2 (.x 1)) (hostEl2 .race [(.mair2El1, .write)]) ∧
      ¬ TrapEl2Cause (.mrsMair2El2 (.x 1)) (hostEl2 .race [(.mair2El1, .write)]) ∧
      ¬ TrapEl3Cause (.mrsMair2El2 (.x 1)) (hostEl2 .race [(.mair2El1, .write)]) := by
  refine ⟨by decide, by decide, ?_, fun h => h.2, fun h => absurd h.2.1 (by decide)⟩
  rintro (h | h | h)
  · exact h (by decide)
  · cases h
  · exact absurd h.1 (by decide)

theorem witness_memoryCell : ¬ NvmemCase (.mrsMair2El1 (.x 5)) (st .el1 ({ · with nvx := 0b101#3 })) := by decide

theorem witness_lowerLevels : (st .el1).ctx.el = .el0 ∨ (st .el1).ctx.el = .el1 := by decide

theorem witness_hostOneName :
    HostAtEl2 (hostEl2 .race []) ∧ (Instr.mrsMair2El2 (.x 1)).name ≠ .mair2El12 := by decide

/-- The state `loaded` meets the invariant and takes a step. -/
theorem witness_stepKeepsInvariant : Inv loaded ∧ ∃ s', step loaded = .next s' := by
  refine ⟨⟨by decide, by decide, ?_, ?_⟩, _, rfl⟩ <;>
    exact ⟨fun h => absurd rfl h, nofun, fun _ => rfl, fun h => absurd rfl h, nofun⟩

theorem witness_launchAligned : (0xFFFFFFFFFFFFFFFC#64 : Word).toNat % 4 = 0 := by decide

theorem witness_straightLine : ([0xD538A225#32] : List InsnWord).length + ([0#64] : List Word).length < 3 := by decide

/-- Two words fit below 2^64 from the last place they do. -/
theorem witness_launchPlaces :
    (0xFFFFFFFFFFFFFFF8#64 : Word).toNat + 4 * ([0xD538A225#32, 0xD518A225#32] : List InsnWord).length ≤ 2 ^ 64 ∧
      ([0xD538A225#32, 0xD518A225#32] : List InsnWord)[1]? = some 0xD518A225#32 := by decide

/-- A run with a `ContextSync` before its second instruction: three steps, one of them the `ContextSync`. -/
theorem witness_completedProgram_sync :
    ∃ s', Host.Core.run Sys2Proof.core 3
      (launch 0#64 [0xD538A225#32, 0xD518A225#32] [4#64] State.reset) = .next s' := ⟨_, rfl⟩

theorem witness_completedProgram :
    ∃ s', Host.Core.run Sys2Proof.core 1 (launch 0#64 [0xD538A225#32] [] State.reset) = .next s' := ⟨_, rfl⟩

theorem witness_attrIndx : (0b1000#4).getLsbD 3 = true ∧ (0b0111#4).getLsbD 3 = false := by decide

theorem witness_writtenBytes :
    (XReg.x 5).WellFormed ∧ Present (st .el3) ∧ PcHasRoom (st .el3) ∧ (st .el3).ctx.el = .el3 ∧
      NoHazard .mair2El1 .write (st .el3) ∧ (0b1111#4).getLsbD 3 = true := by decide

end Sys2Proof.Tests
end

section
/-! SUPPORT. What a completed instruction can do, said once for all six: the name, the direction and the operand decide
it, and a transfer that completes ends in one of two states, one for each direction. -/

namespace Sys2Proof.Machine

/-! ### The six instructions as one access -/

/-- What the chain of tests of an instruction's name answers (R100, R101, R110, R111, R120, R121). -/
def verdict (i : Instr) (s : State) : Verdict :=
  match i.name with
  | .mair2El1 => checkMair2El1 i.kind s.cfg s.ctx
  | .mair2El12 => checkMair2El12 s.cfg s.ctx
  | .mair2El2 => checkMair2El2 s.cfg s.ctx

/-- An instruction after its chain of tests, by its direction. -/
def perform (k : AccessKind) (n : AccessorName) (w : InsnWord) (v : Verdict) (t : XReg) (s : State) : StepOutcome :=
  match k with
  | .read => performRead n w v t s
  | .write => performWrite n w v t s

/-- Every instruction is the chain of tests of its name, then the transfer of its direction. -/
theorem exec_eq_perform (i : Instr) (s : State) :
    exec i s = perform i.kind i.name (encode i) (verdict i s) i.operand s := by
  cases i <;> rfl

theorem performRead_next_iff {n : AccessorName} {w : InsnWord} {v : Verdict} {t : XReg} {s s' : State} :
    performRead n w v t s = .next s' ↔ ∃ p, v = .reach p ∧ transferRead n p t s = .next s' :=
  ⟨performRead_next, by rintro ⟨p, rfl, h⟩; exact h⟩

theorem performWrite_next_iff {n : AccessorName} {w : InsnWord} {v : Verdict} {t : XReg} {s s' : State} :
    performWrite n w v t s = .next s' ↔ ∃ p, v = .reach p ∧ transferWrite n p t s = .next s' :=
  ⟨performWrite_next, by rintro ⟨p, rfl, h⟩; exact h⟩

theorem exec_read_next_iff {i : Instr} (hk : i.kind = .read) {s s' : State} :
    exec i s = .next s' ↔ ∃ p, verdict i s = .reach p ∧ transferRead i.name p i.operand s = .next s' := by
  rw [exec_eq_perform, hk]; exact performRead_next_iff

theorem exec_write_next_iff {i : Instr} (hk : i.kind = .write) {s s' : State} :
    exec i s = .next s' ↔ ∃ p, verdict i s = .reach p ∧ transferWrite i.name p i.operand s = .next s' := by
  rw [exec_eq_perform, hk]; exact performWrite_next_iff

/-! ### The state a completed transfer ends in -/

/-- The test that can refuse or race a transfer leaves all but the count of free choices, takes one of the positions
offered, and under the spec's refusal lets no hazard pass (R176). -/
theorem arbitrate_some_state {hz : Bool} {ps : List Nat} {j : Nat} {s s1 : State} (h0 : 0 ∈ ps)
    (h : arbitrate hz ps s = some (j, s1)) :
    j ∈ ps ∧ (s.cfg.crossName = .refuse → hz = false) ∧ ∃ d, s1 = { s with raceDraws := d } := by
  rcases arbitrate_some h with ⟨hz, rfl, rfl⟩ | ⟨-, hm, rfl, rfl⟩
  · exact ⟨h0, fun _ => hz, _, rfl⟩
  · exact ⟨pickPosition_mem (List.ne_nil_of_mem h0) _, fun hr => by simp [hm] at hr, _, rfl⟩

/-- The record of an access and the count of free choices are apart. -/
theorem recordAccess_setRaceDraws (n : AccessorName) (k : AccessKind) (p : Place) (j : Nat) (v : Word) (s : State)
    (d : Nat) :
    recordAccess n k p j v { s with raceDraws := d } = { recordAccess n k p j v s with raceDraws := d } := by
  have hpe : placeEffects p { s with raceDraws := d } = placeEffects p s := by
    unfold placeEffects; cases hazardPair s.ctx p with
    | none => cases p <;> rfl
    | some h => cases h <;> cases p <;> rfl
  simp only [recordAccess, hpe]
  cases hazardPair s.ctx p with
  | none => rfl
  | some h => cases h <;> rfl

theorem writeAt_setRaceDraws (p : Place) (v : Word) (j : Nat) (s : State) (d : Nat) :
    writeAt p v j { s with raceDraws := d } = { writeAt p v j s with raceDraws := d } := by
  cases j with
  | succ j => rfl
  | zero =>
    cases p with
    | mair2El1 => rfl
    | nvmem280 => rfl
    | mair2El2 =>
      have hr : mair2El2RazWi { s with raceDraws := d } = mair2El2RazWi s := rfl
      simp only [writeAt_zero, writePlace, hr]
      split <;> rfl

/-- The state after a read of `p` by name `n` into `t`, at position `j` of the order of effects. -/
def readState (n : AccessorName) (p : Place) (t : XReg) (j d : Nat) (s : State) : State :=
  { writeX t (valueAt (placeEffects p s) (readPlace p s) j)
      (recordAccess n .read p j (valueAt (placeEffects p s) (readPlace p s) j) s) with
    pc := s.pc + 4#64, raceDraws := d }

/-- The state after a write of `p` by name `n` from `t`, at position `j` of the order of effects. -/
def writeState (n : AccessorName) (p : Place) (t : XReg) (j d : Nat) (s : State) : State :=
  { writeAt p (readX t s) j (recordAccess n .write p j (readX t s) s) with
    pc := s.pc + 4#64, raceDraws := d }

/-- Where a completed read ends (R28, R176). -/
theorem transferRead_next_state {n : AccessorName} {p : Place} {t : XReg} {s s' : State}
    (h : transferRead n p t s = .next s') :
    ∃ j d, j ∈ readPositions n (placeEffects p s) ∧
      (s.cfg.crossName = .refuse → crossNameHazard n .read p s = false) ∧ s' = readState n p t j d s := by
  obtain ⟨j, s1, ha, -, rfl⟩ := transferRead_next h
  obtain ⟨hj, hz, d, rfl⟩ := arbitrate_some_state (zero_mem_readPositions n _) ha
  exact ⟨j, d, hj, hz, by rw [recordAccess_setRaceDraws]; rfl⟩

/-- Where a completed write ends (R28, R176). -/
theorem transferWrite_next_state {n : AccessorName} {p : Place} {t : XReg} {s s' : State}
    (h : transferWrite n p t s = .next s') :
    ∃ j d, j ∈ writePositions n (placeEffects p s) ∧
      (s.cfg.crossName = .refuse → crossNameHazard n .write p s = false) ∧ s' = writeState n p t j d s := by
  obtain ⟨j, s1, ha, -, rfl⟩ := transferWrite_next h
  obtain ⟨hj, hz, d, rfl⟩ := arbitrate_some_state (zero_mem_writePositions n _) ha
  exact ⟨j, d, hj, hz, by rw [recordAccess_setRaceDraws, writeAt_setRaceDraws]; rfl⟩

section
variable (n : AccessorName) (p : Place) (t : XReg) (j d : Nat) (s : State)

@[simp] theorem readState_cfg : (readState n p t j d s).cfg = s.cfg := by simp [readState]
@[simp] theorem readState_ctx : (readState n p t j d s).ctx = s.ctx := by simp [readState]
@[simp] theorem readState_mem : (readState n p t j d s).mem = s.mem := by simp [readState]
@[simp] theorem readState_pc : (readState n p t j d s).pc = s.pc + 4#64 := rfl
@[simp] theorem readState_mair2El1 : (readState n p t j d s).mair2El1 = s.mair2El1 := by simp [readState]
@[simp] theorem readState_mair2El2 : (readState n p t j d s).mair2El2 = s.mair2El2 := by simp [readState]

@[simp] theorem writeState_cfg : (writeState n p t j d s).cfg = s.cfg := by simp [writeState]
@[simp] theorem writeState_ctx : (writeState n p t j d s).ctx = s.ctx := by simp [writeState]
@[simp] theorem writeState_mem : (writeState n p t j d s).mem = s.mem := by simp [writeState]
@[simp] theorem writeState_pc : (writeState n p t j d s).pc = s.pc + 4#64 := rfl

/-- A read into the zero register leaves every general register as it was (R27). -/
theorem sameRegs_readState_xzr : SameRegs s (readState n p .xzr j d s) := fun r =>
  readX_congr (by simp [readState]) r

end

/-- Everything a completed instruction can do: its chain of tests answers a place, and it ends in the state of its
direction, at a position the race offers, with no hazard passed under the spec's refusal. -/
theorem exec_next_cases {i : Instr} {s s' : State} (h : exec i s = .next s') :
    ∃ p j d, verdict i s = .reach p ∧
      (s.cfg.crossName = .refuse → crossNameHazard i.name i.kind p s = false) ∧
      ((i.kind = .read ∧ j ∈ readPositions i.name (placeEffects p s) ∧ s' = readState i.name p i.operand j d s) ∨
        (i.kind = .write ∧ j ∈ writePositions i.name (placeEffects p s) ∧
          s' = writeState i.name p i.operand j d s)) := by
  cases hk : i.kind with
  | read =>
    obtain ⟨p, hv, ht⟩ := (exec_read_next_iff hk).mp h
    obtain ⟨j, d, hj, hz, hs⟩ := transferRead_next_state ht
    exact ⟨p, j, d, hv, hz, .inl ⟨rfl, hj, hs⟩⟩
  | write =>
    obtain ⟨p, hv, ht⟩ := (exec_write_next_iff hk).mp h
    obtain ⟨j, d, hj, hz, hs⟩ := transferWrite_next_state ht
    exact ⟨p, j, d, hv, hz, .inr ⟨rfl, hj, hs⟩⟩

/-! ### The pairs of the hazard (R176) -/

/-- The register whose record the pair keeps. -/
def HazardPair.place : HazardPair → Place
  | .el2 => .mair2El2
  | .el1 => .mair2El1

/-- The names that reach the pair's register where the hazard is possible. -/
def HazardPair.names : HazardPair → List AccessorName
  | .el2 => [.mair2El1, .mair2El2]
  | .el1 => [.mair2El1, .mair2El12]

/-- Where the pair's hazard is possible. -/
def HazardPair.Possible (h : HazardPair) (s : State) : Prop :=
  match h with
  | .el2 => HostAtEl2 s
  | .el1 => HostAtEl3 s

/-- The 64 bits the pair's register holds. -/
def HazardPair.held (h : HazardPair) (s : State) : Word :=
  match h with
  | .el2 => s.mair2El2
  | .el1 => s.mair2El1

/-- A transfer is recorded exactly when it reaches the pair's register where the hazard is possible. -/
theorem hazardPair_eq_some_iff {s : State} {p : Place} {h : HazardPair} :
    hazardPair s.ctx p = some h ↔ h.Possible s ∧ p = h.place := by
  rw [hazardPair_some_iff]
  cases h <;> simp [HazardPair.Possible, HazardPair.place, and_assoc]

/-- Where the hazard of MAIR2_EL2 is possible the register is not RES0 (R24). -/
theorem mair2El2RazWi_of_possible {s : State} (hp : HazardPair.el2.Possible s) : mair2El2RazWi s = false := by
  obtain ⟨hel, -⟩ : HostAtEl2 s := hp
  simp [mair2El2RazWi, mair2El2IsRes0, hel]

/-- Where the hazard is possible a read of the pair's register returns what it holds. -/
theorem readPlace_of_possible {h : HazardPair} {s : State} (hp : h.Possible s) : readPlace h.place s = h.held s := by
  cases h with
  | el1 => rfl
  | el2 => simp [readPlace, HazardPair.place, HazardPair.held, mair2El2RazWi_of_possible hp]

/-- Where the hazard is possible, only the pair's two names reach its register. -/
theorem name_mem_of_reach {i : Instr} {s : State} {h : HazardPair} (hv : verdict i s = .reach h.place)
    (hp : h.Possible s) : i.name ∈ h.names := by
  unfold verdict at hv
  cases hn : i.name with
  | mair2El1 => cases h <;> simp [HazardPair.names]
  | mair2El12 =>
    simp only [hn, checkMair2El12_reach_iff] at hv
    obtain ⟨-, -, hpl⟩ := hv
    cases h with
    | el1 => simp [HazardPair.names]
    | el2 => split at hpl <;> cases hpl
  | mair2El2 =>
    simp only [hn, checkMair2El2_reach_iff] at hv
    obtain ⟨-, -, hpl⟩ := hv
    cases h with
    | el1 => cases hpl
    | el2 => simp [HazardPair.names]

/-- The test of R176 passes an access that meets no unsynchronised access under another name. -/
theorem crossNameHazard_eq_false {n : AccessorName} {k : AccessKind} {p : Place} {s : State} (hno : NoHazard n k s)
    (hn : ∀ h, hazardPair s.ctx p = some h → n ∈ h.names) : crossNameHazard n k p s = false := by
  obtain ⟨hno2, hno1⟩ := hno
  unfold crossNameHazard
  cases hpair : hazardPair s.ctx p with
  | none => rfl
  | some h =>
    have hmem := hn h hpair
    obtain ⟨hposs, -⟩ := hazardPair_eq_some_iff.mp hpair
    refine Bool.eq_false_iff.mpr fun hc => ?_
    have hconf := conflicts_iff.mp hc
    cases h with
    | el2 => exact hno2 hposs (by rintro rfl; simp [HazardPair.names] at hmem) hconf
    | el1 => exact hno1 hposs (by rintro rfl; simp [HazardPair.names] at hmem) hconf

end Sys2Proof.Machine
end

section
/-! The statements on the general registers, the fields of the register and what no step writes. -/

namespace Sys2Proof.Machine

/-! ### The general registers (10_state.md R26, R27) -/

/-- Settles O24: the register file is read back cell by cell. -/
theorem generalRegistersAreCells : Obligations.GeneralRegistersAreCells := by
  intro s v
  refine ⟨fun n hn => readX_writeX_same hn v s, fun r t hrt => readX_writeX_other hrt v s, rfl, fun t => ?_⟩
  exact ⟨rfl, rfl, rfl⟩

/-- Whether a read completes does not depend on its operand. -/
theorem transferRead_completes_iff {n : AccessorName} {p : Place} {t : XReg} {s : State} :
    (∃ s', transferRead n p t s = .next s') ↔
      arbitrate (crossNameHazard n .read p s) (readPositions n (placeEffects p s)) s ≠ none ∧
        s.pc.toNat + 4 < 2 ^ 64 := by
  constructor
  · rintro ⟨s', h⟩
    obtain ⟨j, s1, ha, hpc, -⟩ := transferRead_next h
    exact ⟨by simp [ha], hpc⟩
  · rintro ⟨hne, hpc⟩
    obtain ⟨⟨j, s1⟩, ha⟩ := Option.ne_none_iff_exists'.mp hne
    obtain ⟨-, -, d, rfl⟩ := arbitrate_some_state (zero_mem_readPositions n _) ha
    exact ⟨_, by rw [transferRead, ha]; exact complete_next_iff.mpr ⟨by simpa using hpc, rfl⟩⟩

/-- Two writes that differ in the source register only, and in a word no completed write looks at, complete in the same
states when the two registers hold the same value. -/
theorem performWrite_next_congr {n : AccessorName} {w w' : InsnWord} {v : Verdict} {t t' : XReg} {s s' : State}
    (hr : readX t s = readX t' s) :
    performWrite n w v t s = .next s' ↔ performWrite n w' v t' s = .next s' := by
  have ht : ∀ p, transferWrite n p t s = transferWrite n p t' s := fun p => by simp only [transferWrite, hr]
  simp only [performWrite_next_iff, ht]

/-- A read into the zero register that completes changes no general register, and the same read into any other operand
completes (R27). -/
theorem performRead_xzr_next {n : AccessorName} {w : InsnWord} {v : Verdict} {s s' : State}
    (h : performRead n w v .xzr s = .next s') (w' : InsnWord) (t : XReg) :
    SameRegs s s' ∧ ∃ s'', performRead n w' v t s = .next s'' := by
  obtain ⟨p, rfl, hx⟩ := performRead_next h
  obtain ⟨j, d, -, -, rfl⟩ := transferRead_next_state hx
  exact ⟨sameRegs_readState_xzr n p j d s, transferRead_completes_iff.mpr (transferRead_completes_iff.mp ⟨_, hx⟩)⟩

/-- Settles O23: each MSR reads its source once, and each MRS writes its operand last. -/
theorem registerThirtyOneIsZero : Obligations.RegisterThirtyOneIsZero := by
  intro s s' t
  refine ⟨fun hz => ?_, fun h => ?_, fun h => ?_, fun h => ?_⟩
  · have hr : readX .xzr s = readX t s := hz.symm
    exact ⟨performWrite_next_congr hr, performWrite_next_congr hr, performWrite_next_congr hr⟩
  · exact performRead_xzr_next h _ t
  · exact performRead_xzr_next h _ t
  · exact performRead_xzr_next h _ t

/-! ### What no step writes (10_state.md R29, R30; 20_memory.md R72) -/

theorem exec_next_surroundings {i : Instr} {s s' : State} (h : exec i s = .next s') :
    s'.cfg = s.cfg ∧ s'.ctx = s.ctx ∧ s'.mem = s.mem := by
  obtain ⟨p, j, d, -, -, ⟨-, -, rfl⟩ | ⟨-, -, rfl⟩⟩ := exec_next_cases h
  · exact ⟨readState_cfg .., readState_ctx .., readState_mem ..⟩
  · exact ⟨writeState_cfg .., writeState_ctx .., writeState_mem ..⟩

/-- No step, of the environment or of an instruction, writes the configuration, the context or memory. -/
theorem step_next_surroundings {s s' : State} (h : step s = .next s') :
    s'.cfg = s.cfg ∧ s'.ctx = s.ctx ∧ s'.mem = s.mem := by
  rcases step_next_cases h with ⟨-, rfl⟩ | ⟨i, -, -, hi⟩
  · exact ⟨rfl, rfl, rfl⟩
  · exact exec_next_surroundings hi

/-- Settles O34: memory is the same list, so every address reads as before. -/
theorem noStepWritesContextOrProgram : Obligations.NoStepWritesContextOrProgram := by
  intro s s' h
  obtain ⟨hcfg, hctx, hmem⟩ := step_next_surroundings h
  exact ⟨hcfg, hctx, fun a => by rw [hmem]⟩

/-! ### The fields of the register (10_state.md R21, R23; 20_memory.md R50) -/

theorem attrField_getLsbD (r : Word) (n : Nat) {b : Nat} (hb : b < 8) :
    (attrField r n).getLsbD b = r.getLsbD (8 * n + b) := by
  simp [attrField, hb]

/-- A field joined to the bits above it leaves no gap. -/
theorem extract_append_attrField (r : Word) (n len : Nat) :
    r.extractLsb' (8 * (n + 1)) len ++ attrField r n = r.extractLsb' (8 * n) (len + 8) :=
  BitVec.extractLsb'_append_extractLsb'_eq_extractLsb' (Nat.mul_succ 8 n)

theorem attrFields_concat (r : Word) :
    attrField r 7 ++ attrField r 6 ++ attrField r 5 ++ attrField r 4 ++ attrField r 3 ++ attrField r 2 ++
      attrField r 1 ++ attrField r 0 = r := by
  have h7 : attrField r 7 = r.extractLsb' (8 * (6 + 1)) 8 := rfl
  rw [h7, extract_append_attrField r 6, extract_append_attrField r 5, extract_append_attrField r 4,
    extract_append_attrField r 3, extract_append_attrField r 2, extract_append_attrField r 1,
    extract_append_attrField r 0]
  exact BitVec.extractLsb'_eq_self

theorem eq_of_attrFields_eq {r r' : Word} (h : ∀ n, n < 8 → attrField r' n = attrField r n) : r' = r := by
  refine BitVec.eq_of_getLsbD_eq fun i hi => ?_
  have hb : i % 8 < 8 := Nat.mod_lt _ (by decide)
  calc r'.getLsbD i = (attrField r' (i / 8)).getLsbD (i % 8) := by rw [attrField_getLsbD _ _ hb, Nat.div_add_mod]
    _ = (attrField r (i / 8)).getLsbD (i % 8) := by rw [h _ (by omega)]
    _ = r.getLsbD i := by rw [attrField_getLsbD _ _ hb, Nat.div_add_mod]

/-- Settles O41: bit `b` of field `n` is bit `8n + b`, and every bit of the register is one of these. -/
theorem attrFieldsTileTheRegister : Obligations.AttrFieldsTileTheRegister := fun r =>
  ⟨fun n _ _ hb => attrField_getLsbD r n hb, (attrFields_concat r).symm, fun _ h => eq_of_attrFields_eq h⟩

/-- With the indexes enabled and bit 3 of `AttrIndx` set, its three low bits select the field (R50). -/
theorem selectAttr_of_bit3 (r : Word) {idx : BitVec 4} (h : idx.getLsbD 3 = true) :
    selectAttr r true idx = some (attrField r (idx.toNat % 8)) := by
  simp [selectAttr, h, BitVec.extractLsb'_toNat]

/-- Settles O45: at EL3 the name reaches MAIR2_EL1 itself, and without a hazard the write takes effect last. -/
theorem writtenBytesAreTheSelectedAttributes : Obligations.WrittenBytesAreTheSelectedAttributes := by
  intro t s idx _ hpresent hpc hel hno hidx
  have hv : verdict (.msrMair2El1 t) s = .reach .mair2El1 :=
    (checkMair2El1_reach_iff .write s .mair2El1).mpr ⟨hpresent, by simp [hel, mair2El1NamePlace]⟩
  have hz : crossNameHazard .mair2El1 .write .mair2El1 s = false :=
    crossNameHazard_eq_false hno fun h _ => by cases h <;> simp [HazardPair.names]
  refine ⟨_, (exec_write_next_iff rfl).mpr ⟨_, hv, transferWrite_inOrder hz hpc⟩, ?_⟩
  exact selectAttr_of_bit3 _ hidx

end Sys2Proof.Machine
end

section
/-! The invariant of every step. First the order of effects and what an access does to it, wherever it takes its place;
then the record that holds it; then the two records in the state. -/

namespace Sys2Proof.Machine

/-! ### Putting an access into the order of effects (R70, R176) -/

@[simp] theorem insertEffect_zero (e : Effect) (l : List Effect) : insertEffect 0 e l = e :: l := rfl

@[simp] theorem insertEffect_succ_cons (j : Nat) (e f : Effect) (l : List Effect) :
    insertEffect (j + 1) e (f :: l) = f :: insertEffect j e l := rfl

theorem effectsLinked_cons_cons_iff {e f : Effect} {l : List Effect} :
    EffectsLinked (e :: f :: l) ↔ e.source ≠ none ∧ (e.kind = .read → e.value = f.value) ∧ EffectsLinked (f :: l) :=
  Iff.rfl

/-- The last entry is the value at the last synchronisation, which no access takes effect before. -/
theorem overtakable_lt_length {l : List Effect} (n : AccessorName) (h : EffectsLinked l) :
    overtakable n l < l.length := by
  induction l with
  | nil => exact h.elim
  | cons e l ih =>
    cases l with
    | nil => obtain ⟨hs, -⟩ := h; simp [overtakable, hs]
    | cons f l =>
      obtain ⟨-, -, hl⟩ := effectsLinked_cons_cons_iff.mp h
      have := ih hl
      unfold overtakable
      split
      · exact Nat.succ_pos _
      · simpa using this

/-- A read anywhere in a linked order has returned the value of the effect just before it. -/
theorem EffectsLinked.read_value {l : List Effect} (h : EffectsLinked l) {i : Nat} {f g : Effect}
    (hf : l[i]? = some f) (hg : l[i + 1]? = some g) (hr : f.kind = .read) : f.value = g.value := by
  induction l generalizing i with
  | nil => exact h.elim
  | cons e l ih =>
    cases l with
    | nil => simp at hg
    | cons e' l =>
      obtain ⟨-, hread, hl⟩ := effectsLinked_cons_cons_iff.mp h
      cases i with
      | zero =>
        obtain rfl : e = f := Option.some.inj hf
        obtain rfl : e' = g := Option.some.inj hg
        exact hread hr
      | succ i => exact ih hl (by simpa using hf) (by simpa using hg)

/-- `e` fits at position `j`: if it is a read, it has the value of the effect just before it, and a read just after it
has the value of `e`. -/
structure FitsAt (e : Effect) (j : Nat) (l : List Effect) : Prop where
  older : ∀ f, l[j]? = some f → e.kind = .read → e.value = f.value
  newer : ∀ i f, j = i + 1 → l[i]? = some f → f.kind = .read → f.value = e.value

theorem FitsAt.tail {e f : Effect} {j : Nat} {l : List Effect} (h : FitsAt e (j + 2) (f :: l)) :
    FitsAt e (j + 1) l where
  older g hg := h.older g (by simpa using hg)
  newer i g hi hg := h.newer (i + 1) g (by omega) (by simpa using hg)

theorem FitsAt.tail_zero {e f : Effect} {l : List Effect} (h : FitsAt e 1 (f :: l)) : FitsAt e 0 l where
  older g hg := h.older g (by simpa using hg)
  newer i g hi := by omega

/-- An access put where it fits, above the value at the last synchronisation, leaves the order linked. -/
theorem EffectsLinked.insert {l : List Effect} {e : Effect} {j : Nat} (hl : EffectsLinked l) (hs : e.source ≠ none)
    (hj : j < l.length) (hfit : FitsAt e j l) : EffectsLinked (insertEffect j e l) := by
  induction j generalizing l with
  | zero =>
    cases l with
    | nil => exact hl.elim
    | cons f l => exact effectsLinked_cons_cons_iff.mpr ⟨hs, hfit.older f rfl, hl⟩
  | succ j ih =>
    match l, hl with
    | [f], _ => simp at hj
    | f :: g :: l, hl =>
      obtain ⟨hfs, hread, hgl⟩ := effectsLinked_cons_cons_iff.mp hl
      cases j with
      | zero =>
        exact effectsLinked_cons_cons_iff.mpr
          ⟨hfs, hfit.newer 0 f rfl rfl, ih hgl (Nat.succ_pos _) hfit.tail_zero⟩
      | succ j => exact effectsLinked_cons_cons_iff.mpr ⟨hfs, hread, ih hgl (by simpa using hj) hfit.tail⟩

/-- The latest value after an access is put at position `j`. -/
theorem head_insertEffect {l : List Effect} (j : Nat) (e : Effect) (hne : l ≠ []) :
    (insertEffect j e l).head? = if j = 0 then some e else l.head? := by
  cases j with
  | zero => rfl
  | succ j =>
    cases l with
    | nil => exact absurd rfl hne
    | cons f l => rfl

/-- An access that takes effect before accesses of the other name only is the latest of its own (R70). -/
theorem kindsInEffect_insertEffect {n : AccessorName} {k : AccessKind} {v : Word} {j : Nat} {l : List Effect}
    (hj : ∀ e ∈ l.take j, e.source ≠ none ∧ e.source ≠ some n) (m : AccessorName) :
    kindsInEffect m (insertEffect j ⟨some n, k, v⟩ l) = kindsInEffect m l ++ if n = m then [k] else [] := by
  have hl : l.filter (fun e => decide (e.source = some m)) =
      (l.take j).filter (fun e => decide (e.source = some m)) ++
        (l.drop j).filter (fun e => decide (e.source = some m)) := by
    rw [← List.filter_append, List.take_append_drop]
  simp only [kindsInEffect, hl, insertEffect, List.filter_append, List.filter_cons]
  by_cases hnm : n = m
  · have hnil : (l.take j).filter (fun e => decide (e.source = some m)) = [] :=
      List.filter_eq_nil_iff.mpr fun e he => by simpa [hnm] using (hj e he).2
    simp [hnil, hnm]
  · simp [hnm]

theorem kindsInProgram_append (n m : AccessorName) (k : AccessKind) (l : List (AccessorName × AccessKind)) :
    kindsInProgram m (l ++ [(n, k)]) = kindsInProgram m l ++ if n = m then [k] else [] := by
  by_cases hnm : n = m <;> simp [kindsInProgram, hnm]

/-! ### An order of effects that matches a list of accesses -/

/-- The order of effects is linked, its latest value is the register's, and each name's accesses are in it in program
order (R70): the fourth clause of `RecordInv`. -/
structure InOrder (accesses : List (AccessorName × AccessKind)) (effects : List Effect) (current : Word) : Prop where
  linked : EffectsLinked effects
  latest : effects.head?.map (·.value) = some current
  kinds : ∀ n, kindsInEffect n effects = kindsInProgram n accesses

/-- The value a read returns is that of the effect just before its position. -/
theorem InOrder.valueAt_eq {a : List (AccessorName × AccessKind)} {l : List Effect} {current : Word}
    (h : InOrder a l current) {j : Nat} {f : Effect} (hf : l[j]? = some f) : valueAt l current j = f.value := by
  cases j with
  | zero =>
    have hlatest := h.latest
    rw [List.head?_eq_getElem?, hf] at hlatest
    exact (Option.some.inj hlatest).symm
  | succ j => simp [valueAt, hf]

/-- Every position offered to an access has only accesses of the other name after it, and the value at the last
synchronisation before it. -/
theorem InOrder.position {a : List (AccessorName × AccessKind)} {l : List Effect} {current : Word}
    (h : InOrder a l current) {n : AccessorName} {j : Nat} (hj : j ∈ readPositions n l) :
    j < l.length ∧ ∀ e ∈ l.take j, e.source ≠ none ∧ e.source ≠ some n := by
  have hle : j ≤ overtakable n l := by simpa [readPositions, Nat.lt_succ_iff] using hj
  exact ⟨hle.trans_lt (overtakable_lt_length n h.linked), (split_of_le_overtakable hle).2⟩

/-- A read fits wherever it returns the value of its position. -/
theorem InOrder.read_fits {a : List (AccessorName × AccessKind)} {l : List Effect} {current : Word}
    (h : InOrder a l current) (n : AccessorName) {j : Nat} (hj : j < l.length) :
    FitsAt ⟨some n, .read, valueAt l current j⟩ j l where
  older _ hf _ := h.valueAt_eq hf
  newer i f hi hf hr := by
    subst hi
    have hg : l[i + 1]? = some l[i + 1] := List.getElem?_eq_getElem hj
    exact (h.linked.read_value hf hg hr).trans (h.valueAt_eq hg).symm

/-- A write fits at every position offered to it: what is just after is a write. -/
theorem write_fits {n : AccessorName} {l : List Effect} {j : Nat} (hj : j ∈ writePositions n l) (v : Word) :
    FitsAt ⟨some n, .write, v⟩ j l where
  older _ _ hr := by cases hr
  newer i f hi hf hr := by
    subst hi
    have hw : nextIsWrite l (i + 1) = true := (List.mem_filter.mp hj).2
    simp [nextIsWrite, hf, hr] at hw

/-- An access that takes one of the positions offered, where it fits, keeps the order matched to the list of accesses,
which it extends; the register has its value if it takes effect last and is as before otherwise. -/
theorem InOrder.insert {a : List (AccessorName × AccessKind)} {l : List Effect} {current : Word}
    (h : InOrder a l current) {n : AccessorName} {k : AccessKind} {v : Word} {j : Nat}
    (hj : j ∈ readPositions n l) (hfit : FitsAt ⟨some n, k, v⟩ j l) :
    InOrder (a ++ [(n, k)]) (insertEffect j ⟨some n, k, v⟩ l) (if j = 0 then v else current) := by
  obtain ⟨hlt, hnewer⟩ := h.position hj
  refine ⟨h.linked.insert nofun hlt hfit, ?_, fun m => ?_⟩
  · rw [head_insertEffect j _ (List.ne_nil_of_length_pos (Nat.zero_lt_of_lt hlt))]
    split
    · rfl
    · exact h.latest
  · rw [kindsInEffect_insertEffect hnewer, kindsInProgram_append, h.kinds]

/-! ### The record of a pair -/

theorem AccessKind.ne_write_iff {k : AccessKind} : k ≠ .write ↔ k = .read := by cases k <;> simp

/-- An access without conflict is a read, and so is every recorded access under another name. -/
theorem reads_of_not_conflicts {l : List (AccessorName × AccessKind)} {n : AccessorName} {k : AccessKind}
    (h : conflicts l n k = false) {e : AccessorName × AccessKind} (he : e ∈ l) (hne : e.1 ≠ n) :
    e.2 = .read ∧ k = .read := by
  have hno : ¬ (k = .write ∨ e.2 = .write) := fun hw =>
    Bool.eq_false_iff.mp h (conflicts_iff.mpr ⟨e, he, hne, hw⟩)
  rw [not_or] at hno
  exact ⟨AccessKind.ne_write_iff.mp hno.2, AccessKind.ne_write_iff.mp hno.1⟩

section
variable {mode : CrossNameMode} {possible : Prop} {names : List AccessorName} {u : Unsync} {current : Word}

theorem recordInv_empty : RecordInv mode possible names ⟨[], []⟩ current :=
  ⟨fun h => absurd rfl h, nofun, fun _ => rfl, fun h => absurd rfl h, fun _ => nofun⟩

/-- Where the hazard is not possible nothing is recorded, so the register's value does not matter. -/
theorem RecordInv.of_not_possible (h : RecordInv mode possible names u current) (hp : ¬ possible) (current' : Word) :
    RecordInv mode possible names u current' := by
  obtain ⟨hposs, hnames, hempty, -, hmode⟩ := h
  have hnil : u.accesses = [] := not_not.mp fun hne => hp (hposs hne)
  exact ⟨hposs, hnames, hempty, fun hne => absurd hnil hne, hmode⟩

/-- The order an access finds matches the record, also where nothing is recorded yet. -/
theorem RecordInv.inOrder (h : RecordInv mode possible names u current) :
    InOrder u.accesses (effectOrder u current) current := by
  obtain ⟨-, -, hempty, horder, -⟩ := h
  by_cases hnil : u.accesses = []
  · simp only [effectOrder, hempty hnil, hnil, List.isEmpty_nil, if_true]
    exact ⟨⟨rfl, rfl⟩, rfl, fun n => rfl⟩
  · obtain ⟨hlinked, hlatest, hkinds⟩ := horder hnil
    have hne : u.effects ≠ [] := by rintro hl; rw [hl] at hlinked; exact hlinked
    simp only [effectOrder, List.isEmpty_iff, hne, if_false]
    exact ⟨hlinked, hlatest, hkinds⟩

/-- Recording an access keeps the record in order: it is made under a name of the pair where the hazard is possible,
takes one of the positions offered, fits there, and conflicts with nothing under the spec's refusal. -/
theorem RecordInv.extend (h : RecordInv mode possible names u current) {n : AccessorName} {k : AccessKind} {v : Word}
    {j : Nat} (hp : possible) (hn : n ∈ names) (hmode : mode = .refuse → conflicts u.accesses n k = false)
    (hj : j ∈ readPositions n (effectOrder u current)) (hfit : FitsAt ⟨some n, k, v⟩ j (effectOrder u current)) :
    RecordInv mode possible names
      ⟨u.accesses ++ [(n, k)], insertEffect j ⟨some n, k, v⟩ (effectOrder u current)⟩
      (if j = 0 then v else current) := by
  obtain ⟨hlinked, hlatest, hkinds⟩ := h.inOrder.insert hj hfit
  obtain ⟨-, hnames, -, -, hreads⟩ := h
  refine ⟨fun _ => hp, ?_, by simp, fun _ => ⟨hlinked, hlatest, hkinds⟩, fun hm => ?_⟩
  · intro e he
    rcases List.mem_append.mp he with he | he
    · exact hnames e he
    · rw [List.mem_singleton.mp he]; exact hn
  · have hnew : ∀ e ∈ u.accesses, e.1 ≠ n → e.2 = .read ∧ k = .read := fun e he hne =>
      reads_of_not_conflicts (hmode hm) he hne
    intro e he f hf hef
    rcases List.mem_append.mp he with he | he <;> rcases List.mem_append.mp hf with hf | hf
    · exact hreads hm e he f hf hef
    · rw [List.mem_singleton.mp hf] at hef ⊢; exact hnew e he hef
    · rw [List.mem_singleton.mp he] at hef ⊢; exact (hnew f hf hef.symm).symm
    · rw [List.mem_singleton.mp he, List.mem_singleton.mp hf] at hef; exact absurd rfl hef

end

/-! ### The two records in the state -/

/-- The pair's record is in order. -/
def PairInv (h : HazardPair) (s : State) : Prop :=
  RecordInv s.cfg.crossName (h.Possible s) h.names (unsyncOf h s) (h.held s)

theorem inv_iff {s : State} :
    Inv s ↔ Memory.wf s.mem = true ∧ s.pc.toNat % 4 = 0 ∧ ∀ h, PairInv h s := by
  refine ⟨fun ⟨hmem, hpc, h2, h1⟩ => ⟨hmem, hpc, fun h => ?_⟩, fun ⟨hmem, hpc, h⟩ => ⟨hmem, hpc, h .el2, h .el1⟩⟩
  cases h with
  | el2 => exact h2
  | el1 => exact h1

theorem pairInv_of_empty {h : HazardPair} {s : State} (hu : unsyncOf h s = ⟨[], []⟩) : PairInv h s := by
  unfold PairInv; rw [hu]; exact recordInv_empty

theorem unsyncOf_contextSync (h : HazardPair) (s : State) : unsyncOf h (contextSync s) = ⟨[], []⟩ := by
  cases h <;> rfl

/-- What `recordAccess` leaves in the record of each pair. -/
theorem unsyncOf_recordAccess (h : HazardPair) (n : AccessorName) (k : AccessKind) (p : Place) (j : Nat) (v : Word)
    (s : State) :
    unsyncOf h (recordAccess n k p j v s) =
      if hazardPair s.ctx p = some h then
        ⟨(unsyncOf h s).accesses ++ [(n, k)], insertEffect j ⟨some n, k, v⟩ (placeEffects p s)⟩
      else unsyncOf h s := by
  unfold recordAccess
  cases hazardPair s.ctx p with
  | none => simp
  | some g => cases g <;> cases h <;> simp [setUnsync, unsyncOf]

/-- The order of effects at the pair's register, where the hazard is possible. -/
theorem placeEffects_of_possible {h : HazardPair} {s : State} (hp : h.Possible s) :
    placeEffects h.place s = effectOrder (unsyncOf h s) (h.held s) := by
  simp only [placeEffects, hazardPair_eq_some_iff.mpr ⟨hp, rfl⟩, readPlace_of_possible hp]

/-- `s'` comes after an access by name `n` of kind `k` and value `v` that took effect on `p` at position `j`: it is
recorded, and the register reached holds `v` if the access took effect last. -/
structure AfterAccess (n : AccessorName) (k : AccessKind) (p : Place) (j : Nat) (v : Word) (s s' : State) : Prop where
  cfg : s'.cfg = s.cfg
  ctx : s'.ctx = s.ctx
  record : ∀ h : HazardPair, unsyncOf h s' = unsyncOf h (recordAccess n k p j v s)
  reached : ∀ h : HazardPair, h.Possible s → p = h.place → h.held s' = if j = 0 then v else h.held s
  other : ∀ h : HazardPair, p ≠ h.place → h.held s' = h.held s

theorem possible_congr (h : HazardPair) {s s' : State} (hctx : s'.ctx = s.ctx) : h.Possible s' = h.Possible s := by
  cases h <;> simp only [HazardPair.Possible, HostAtEl2, HostAtEl3, hctx]

@[simp] theorem held_recordAccess (h : HazardPair) (n : AccessorName) (k : AccessKind) (p : Place) (j : Nat) (v : Word)
    (s : State) : h.held (recordAccess n k p j v s) = h.held s := by
  cases h <;> simp [HazardPair.held]

@[simp] theorem held_readState (h : HazardPair) (n : AccessorName) (p : Place) (t : XReg) (j d : Nat) (s : State) :
    h.held (readState n p t j d s) = h.held s := by
  cases h <;> simp [HazardPair.held]

theorem held_writeState (h : HazardPair) (n : AccessorName) (p : Place) (t : XReg) (j d : Nat) (s : State) :
    h.held (writeState n p t j d s) = h.held (writeAt p (readX t s) j (recordAccess n .write p j (readX t s) s)) := by
  cases h <;> rfl

theorem held_writePlace_same {h : HazardPair} {s : State} (hp : h.Possible s) (v : Word) :
    h.held (writePlace h.place v s) = v := by
  cases h with
  | el1 => rfl
  | el2 => simp [writePlace, HazardPair.place, HazardPair.held, mair2El2RazWi_of_possible hp]

theorem writePlace_mair2El1_other {p : Place} (hp : p ≠ .mair2El1) (v : Word) (s : State) :
    (writePlace p v s).mair2El1 = s.mair2El1 := by
  cases p with
  | mair2El1 => exact absurd rfl hp
  | mair2El2 => simp only [writePlace]; split <;> rfl
  | nvmem280 => rfl

theorem writePlace_mair2El2_other {p : Place} (hp : p ≠ .mair2El2) (v : Word) (s : State) :
    (writePlace p v s).mair2El2 = s.mair2El2 := by
  cases p with
  | mair2El1 => rfl
  | mair2El2 => exact absurd rfl hp
  | nvmem280 => rfl

theorem held_writeAt_other {h : HazardPair} {p : Place} (hp : p ≠ h.place) (v : Word) (j : Nat) (s : State) :
    h.held (writeAt p v j s) = h.held s := by
  cases j with
  | succ j => rfl
  | zero =>
    cases h with
    | el2 => exact writePlace_mair2El2_other hp v s
    | el1 => exact writePlace_mair2El1_other hp v s

/-- A read in program order returns what the register holds, so the register has the latest value wherever the read
takes effect. -/
theorem afterAccess_readState (n : AccessorName) (p : Place) (t : XReg) (j d : Nat) (s : State) :
    AfterAccess n .read p j (valueAt (placeEffects p s) (readPlace p s) j) s (readState n p t j d s) where
  cfg := readState_cfg ..
  ctx := readState_ctx ..
  record h := by cases h <;> rfl
  reached h hp hpl := by
    rw [held_readState]
    split
    · next hj => subst hj hpl; exact (readPlace_of_possible hp).symm
    · rfl
  other h _ := held_readState ..

/-- A write that takes effect last leaves its own value, an earlier one the value that was there. -/
theorem afterAccess_writeState (n : AccessorName) (p : Place) (t : XReg) (j d : Nat) (s : State) :
    AfterAccess n .write p j (readX t s) s (writeState n p t j d s) where
  cfg := writeState_cfg ..
  ctx := writeState_ctx ..
  record h := by cases h <;> simp [unsyncOf, writeState]
  reached h hp hpl := by
    subst hpl
    rw [held_writeState]
    cases j with
    | zero => exact held_writePlace_same (by rwa [possible_congr h (recordAccess_ctx ..)]) _
    | succ j => exact held_recordAccess ..
  other h hpl := by rw [held_writeState, held_writeAt_other hpl, held_recordAccess]

/-- An access keeps the record of each pair: where it is recorded it takes one of the positions offered and fits there;
where it is not, the register is as before or nothing is recorded. -/
theorem AfterAccess.pairInv {n : AccessorName} {k : AccessKind} {p : Place} {j : Nat} {v : Word} {s s' : State}
    (ha : AfterAccess n k p j v s s') {h : HazardPair} (hinv : PairInv h s)
    (hn : h.Possible s → p = h.place → n ∈ h.names)
    (hz : s.cfg.crossName = .refuse → crossNameHazard n k p s = false)
    (hj : j ∈ readPositions n (placeEffects p s))
    (hfit : h.Possible s → p = h.place → FitsAt ⟨some n, k, v⟩ j (placeEffects p s)) : PairInv h s' := by
  have hposs : h.Possible s' = h.Possible s := possible_congr h ha.ctx
  unfold PairInv
  rw [ha.cfg, hposs, ha.record, unsyncOf_recordAccess]
  split
  · next hpair =>
    obtain ⟨hp, hpl⟩ := hazardPair_eq_some_iff.mp hpair
    rw [ha.reached h hp hpl]
    have hpe : placeEffects p s = effectOrder (unsyncOf h s) (h.held s) := hpl ▸ placeEffects_of_possible hp
    rw [hpe] at hj hfit ⊢
    exact RecordInv.extend hinv hp (hn hp hpl) (fun hm => by simpa [crossNameHazard, hpair] using hz hm) hj
      (hfit hp hpl)
  · next hpair =>
    by_cases hpl : p = h.place
    · exact RecordInv.of_not_possible hinv (fun hp => hpair (hazardPair_eq_some_iff.mpr ⟨hp, hpl⟩)) _
    · rw [ha.other h hpl]; exact hinv

/-- Every instruction that completes keeps both records in order. -/
theorem exec_keeps_pairInv {i : Instr} {s s' : State} (hs : exec i s = .next s') {h : HazardPair}
    (hinv : PairInv h s) : PairInv h s' := by
  obtain ⟨p, j, d, hv, hz, ⟨hk, hj, rfl⟩ | ⟨hk, hj, rfl⟩⟩ := exec_next_cases hs <;> rw [hk] at hz
  · refine (afterAccess_readState ..).pairInv hinv (fun hp hpl => name_mem_of_reach (hpl ▸ hv) hp) hz hj ?_
    rintro hp rfl
    have horder : InOrder (unsyncOf h s).accesses (placeEffects h.place s) (readPlace h.place s) := by
      rw [placeEffects_of_possible hp, readPlace_of_possible hp]; exact RecordInv.inOrder hinv
    exact horder.read_fits i.name (horder.position hj).1
  · exact (afterAccess_writeState ..).pairInv hinv (fun hp hpl => name_mem_of_reach (hpl ▸ hv) hp) hz
      (List.mem_filter.mp hj).1 fun _ _ => write_fits hj _

theorem exec_next_pc {i : Instr} {s s' : State} (h : exec i s = .next s') : s'.pc = s.pc + 4#64 := by
  obtain ⟨p, j, d, -, -, ⟨-, -, rfl⟩ | ⟨-, -, rfl⟩⟩ := exec_next_cases h <;> rfl

theorem add_four_aligned {a : Word} (h : a.toNat % 4 = 0) : (a + 4#64).toNat % 4 = 0 := by
  simp only [BitVec.toNat_add, BitVec.toNat_ofNat]; omega

theorem contextSync_inv {s : State} (hmem : Memory.wf s.mem = true) (hpc : s.pc.toNat % 4 = 0) :
    Inv (contextSync s) :=
  inv_iff.mpr ⟨hmem, hpc, fun h => pairInv_of_empty (unsyncOf_contextSync h s)⟩

/-- Settles O36: both start with nothing recorded. -/
theorem resetAndLaunchMeetTheInvariant : Obligations.ResetAndLaunchMeetTheInvariant :=
  ⟨contextSync_inv (s := State.reset) reset_mem_wf rfl,
    fun base program syncs s hbase => contextSync_inv (launch_mem_wf base program syncs s) hbase⟩

/-- Settles O35: a `ContextSync` empties both records, and an instruction extends the record of the register it reaches
at a position where it fits. -/
theorem everyStepKeepsTheInvariant : Obligations.EveryStepKeepsTheInvariant := by
  intro s s' hinv hstep
  obtain ⟨hmem, hpc, hpairs⟩ := inv_iff.mp hinv
  rcases step_next_cases hstep with ⟨-, rfl⟩ | ⟨i, -, -, hi⟩
  · exact contextSync_inv hmem hpc
  · obtain ⟨-, -, hmem'⟩ := exec_next_surroundings hi
    refine inv_iff.mpr ⟨hmem' ▸ hmem, ?_, fun h => exec_keeps_pairInv hi (hpairs h)⟩
    rw [exec_next_pc hi]
    exact add_four_aligned hpc

end Sys2Proof.Machine
end

section
/-! The byte an `AttrIndx` selects and the meaning of an `Attr` byte, as a function of its two nibbles. -/

namespace Sys2Proof.Machine

/-! ### The field `AttrIndx` selects (20_memory.md R50) -/

/-- Without the extension, or with bit 3 of `AttrIndx` clear, the register is not consulted. -/
theorem selectAttr_eq_none (r : Word) {aie : Bool} {idx : BitVec 4} (h : ¬ (aie = true ∧ idx.getLsbD 3 = true)) :
    selectAttr r aie idx = none :=
  if_neg (by simpa using h)

/-- Settles O42: the field selected is number `AttrIndx[2:0]`, and its bit `b` is bit `8n + b` of the register. -/
theorem attrIndxSelectsTheField : Obligations.AttrIndxSelectsTheField := by
  refine fun r aie idx => ⟨?_, selectAttr_eq_none r⟩
  rintro ⟨rfl, hidx⟩
  exact ⟨_, selectAttr_of_bit3 r hidx, fun b hb => attrField_getLsbD r _ hb⟩

/-! ### The nibbles of a byte, at the width 8 that `decodeAttr` reads them from -/

@[simp] theorem highNibble_append (o i : BitVec 4) : (o ++ i).extractLsb' 4 4 = o :=
  BitVec.extractLsb'_append_eq_left

@[simp] theorem lowNibble_append (o i : BitVec 4) : (o ++ i).extractLsb' 0 4 = i :=
  BitVec.extractLsb'_append_eq_right

/-! ### The cacheability of a nibble (20_memory.md R54) -/

/-- But for the Non-cacheable nibble, bit 2 tells Write-Back from Write-Through and bit 3 Non-transient from
Transient. -/
theorem cacheOf_of_ne {n : BitVec 4} (hn : n ≠ 0b0100#4) :
    cacheOf n = if n.getLsbD 2 then .wb (!n.getLsbD 3) (n.getLsbD 1) (n.getLsbD 0)
      else .wt (!n.getLsbD 3) (n.getLsbD 1) (n.getLsbD 0) := by
  unfold cacheOf
  rw [if_neg hn]
  cases n.getLsbD 3 <;> cases n.getLsbD 2 <;> rfl

/-- The same by the policy `p` and the two allocate bits. -/
theorem cacheOf_append {p : BitVec 2} {r w : BitVec 1} (hn : p ++ r ++ w ≠ 0b0100#4) :
    cacheOf (p ++ r ++ w) = if p.getLsbD 0 then .wb (!p.getLsbD 1) (r.getLsbD 0) (w.getLsbD 0)
      else .wt (!p.getLsbD 1) (r.getLsbD 0) (w.getLsbD 0) := by
  have h3 : (p ++ r ++ w).getLsbD 3 = p.getLsbD 1 := by rw [BitVec.getLsbD_append, BitVec.getLsbD_append]; rfl
  have h2 : (p ++ r ++ w).getLsbD 2 = p.getLsbD 0 := by rw [BitVec.getLsbD_append, BitVec.getLsbD_append]; rfl
  have h1 : (p ++ r ++ w).getLsbD 1 = r.getLsbD 0 := by rw [BitVec.getLsbD_append, BitVec.getLsbD_append]; rfl
  have h0 : (p ++ r ++ w).getLsbD 0 = w.getLsbD 0 := by rw [BitVec.getLsbD_append]; rfl
  rw [cacheOf_of_ne hn, h3, h2, h1, h0]

theorem isWB_cacheOf_iff (n : BitVec 4) : (cacheOf n).isWB = true ↔ n ≠ 0b0100#4 ∧ n.getLsbD 2 = true := by
  by_cases hn : n = 0b0100#4
  · subst hn; decide
  · rw [cacheOf_of_ne hn]
    cases n.getLsbD 2 <;> simp [hn, Cache.isWB]

/-! ### The rows of the `Attr` table (20_memory.md R51) -/

/-- A zero high nibble: a Device type by `dd`, if the two low bits give the row a meaning (R52, R57). -/
theorem decodeAttr_device (dd ty : BitVec 2) (xs mte : Bool) :
    decodeAttr (0b0000#4 ++ dd ++ ty) xs mte =
      if ty = 0b00#2 then .device (devType dd) false
      else if ty = 0b01#2 then if xs then .device (devType dd) true else .unpredictable
      else .unpredictable := by
  have ho : (0b0000#4 ++ dd ++ ty).extractLsb' 4 4 = 0b0000#4 := by
    rw [BitVec.extractLsb'_append_eq_of_le (by decide), BitVec.extractLsb'_append_eq_left]
  have hdd : (0b0000#4 ++ dd ++ ty).extractLsb' 2 2 = dd := by
    rw [BitVec.extractLsb'_append_eq_of_le (by decide), BitVec.extractLsb'_append_eq_right]
  have hty : (0b0000#4 ++ dd ++ ty).extractLsb' 0 2 = ty := BitVec.extractLsb'_append_eq_right
  unfold decodeAttr
  rw [ho, hdd, hty, if_pos rfl]

/-- Two non-zero nibbles: Normal memory, outer by the high nibble and inner by the low one (R54, R57). -/
theorem decodeAttr_normal {o i : BitVec 4} (ho : o ≠ 0b0000#4) (hi : i ≠ 0b0000#4) (xs mte : Bool) :
    decodeAttr (o ++ i) xs mte =
      .normal (cacheOf o) (cacheOf i) false (xs && (cacheOf o).isWB && (cacheOf i).isWB) := by
  simp [decodeAttr, ho, hi]

/-- Only the low nibble zero: three values have a meaning, each by a feature (R55, R56). -/
theorem decodeAttr_lowZero {o : BitVec 4} (ho : o ≠ 0b0000#4) (xs mte : Bool) :
    decodeAttr (o ++ 0b0000#4) xs mte =
      if o = 0b0100#4 then if xs then .normal .nc .nc false true else .unpredictable
      else if o = 0b1010#4 then
        if xs then .normal (.wt false true false) (.wt false true false) false true else .unpredictable
      else if o = 0b1111#4 then
        if mte then .normal (.wb false true true) (.wb false true true) true xs else .unpredictable
      else .unpredictable := by
  simp [decodeAttr, ho]

/-- Settles O43: the high nibble is zero, both nibbles are non-zero, or only the low one is zero. -/
theorem attrTableRows : Obligations.AttrTableRows := by
  intro xs mte
  refine ⟨fun dd => decodeAttr_device dd 0b00#2 xs mte, fun dd => decodeAttr_device dd 0b01#2 xs mte, fun dd b => ?_,
    fun o i ho hi => decodeAttr_normal ho hi xs mte, decodeAttr_lowZero (o := 0b0100#4) (by decide) xs mte,
    decodeAttr_lowZero (o := 0b1010#4) (by decide) xs mte, decodeAttr_lowZero (o := 0b1111#4) (by decide) xs mte,
    fun o h0 h4 hA hF => ?_⟩
  · obtain ⟨hne0, hne1⟩ : 0b1#1 ++ b ≠ 0b00#2 ∧ 0b1#1 ++ b ≠ 0b01#2 := by revert b; decide
    calc decodeAttr (0b0000#4 ++ dd ++ 0b1#1 ++ b) xs mte
        = decodeAttr (0b0000#4 ++ dd ++ (0b1#1 ++ b)) xs mte := congrArg (decodeAttr · xs mte) BitVec.append_assoc
      _ = .unpredictable := by rw [decodeAttr_device, if_neg hne0, if_neg hne1]
  · rw [decodeAttr_lowZero h0, if_neg h4, if_neg hA, if_neg hF]

/-- Settles O44: a nibble is its policy and its two allocate bits, and only `0100` is not told by them. -/
theorem attrNibbleTables : Obligations.AttrNibbleTables := by
  refine ⟨⟨rfl, rfl, rfl, rfl⟩, fun r w => ⟨fun _ => ?_, rfl, fun h => ?_, ?_, ?_⟩, fun n _ => ?_,
    fun o i xs mte ho hi => ⟨_, decodeAttr_normal ho hi xs mte⟩⟩
  · exact cacheOf_append (p := 0b00#2) (by revert r w; decide)
  · exact cacheOf_append (p := 0b01#2) (by revert r w; decide)
  · exact cacheOf_append (p := 0b10#2) (by revert r w; decide)
  · exact cacheOf_append (p := 0b11#2) (by revert r w; decide)
  · rw [isWB_cacheOf_iff]
    revert n; decide

end Sys2Proof.Machine
end

section
/-! Decoding the word of each instruction, and the exceptions of all six as the rows of 60_exceptions.md R142. -/

namespace Sys2Proof.Machine

/-! ### The word of an instruction decodes to it (30_encoding.md R86, R87) -/

theorem XReg.ofField_toField {t : XReg} (h : t.WellFormed) : XReg.ofField t.toField = t := by
  cases t with
  | xzr => rfl
  | x n =>
    have hn : n ≤ 30 := by simpa [XReg.WellFormed, XReg.wellFormed] using h
    have hne : BitVec.ofNat 5 n ≠ 31#5 := fun he => by
      have := congrArg BitVec.toNat he
      simp only [BitVec.toNat_ofNat] at this
      omega
    rw [XReg.toField, XReg.ofField, if_neg hne, BitVec.toNat_ofNat, Nat.mod_eq_of_lt (by omega)]

/-- The mask keeps every bit of the word but `Rt`. -/
theorem sysMoveWord_and_insnMask (k : AccessKind) (n : AccessorName) (f : BitVec 5) :
    sysMoveWord k n f &&& insnMask = sysMoveWord k n 0#5 := by
  revert f; cases k <;> cases n <;> decide

theorem sysMoveWord_rt (k : AccessKind) (n : AccessorName) (f : BitVec 5) :
    (sysMoveWord k n f).extractLsb' 0 5 = f := by
  revert f; cases k <;> cases n <;> decide

theorem sysMoveWord_zero_eq_matchValue (i : Instr) :
    sysMoveWord i.kind i.name 0#5 = Laws.EncodedForm.matchValue i := by
  cases i <;> simp only [Instr.kind, Instr.name, Laws.EncodedForm.matchValue] <;> decide

theorem decode_encode {i : Instr} (h : i.WellFormed) : decode (encode i) = .ok i := by
  have ht : XReg.ofField i.operand.toField = i.operand := XReg.ofField_toField h
  simp only [encode, decode, sysMoveWord_and_insnMask, sysMoveWord_rt, sysMoveWord_zero_eq_matchValue, ht]
  cases i <;> simp [Laws.EncodedForm.matchValue, Instr.operand]

/-- The word of every instruction in the form R86 gives it: the match value of its row with `Rt` in its low bits. -/
theorem encode_eq_matchValue (i : Instr) :
    encode i = Laws.EncodedForm.matchValue i ||| i.operand.toField.setWidth 32 := by
  cases i with
  | mrsMair2El1 t => exact Laws.EncodedForm.mrsMair2El1 t
  | msrMair2El1 t => exact Laws.EncodedForm.msrMair2El1 t
  | mrsMair2El12 t => exact Laws.EncodedForm.mrsMair2El12 t
  | msrMair2El12 t => exact Laws.EncodedForm.msrMair2El12 t
  | mrsMair2El2 t => exact Laws.EncodedForm.mrsMair2El2 t
  | msrMair2El2 t => exact Laws.EncodedForm.msrMair2El2 t

/-! ### The exceptions (60_exceptions.md R140 to R142) -/

theorem perform_fault_iff {k : AccessKind} {n : AccessorName} {w : InsnWord} {v : Verdict} {t : XReg} {s : State}
    {f : Fault} :
    perform k n w v t s = .fault f ↔
      (v = .undefined ∧ f = .undefined) ∨ ∃ g, v = .trap g ∧ f = .sysTrap g 0x18#8 w := by
  cases k with
  | read => exact performRead_fault_iff
  | write => exact performWrite_fault_iff

/-- An instruction faults exactly as its chain of tests says. -/
theorem exec_fault_iff {i : Instr} {s : State} {f : Fault} :
    exec i s = .fault f ↔
      (verdict i s = .undefined ∧ f = .undefined) ∨ ∃ g, verdict i s = .trap g ∧ f = .sysTrap g 0x18#8 (encode i) := by
  rw [exec_eq_perform]; exact perform_fault_iff

/-- The chain of tests ends in Undefined exactly in the rows of R142 that name it. -/
theorem verdict_undefined_iff {i : Instr} {s : State} : verdict i s = .undefined ↔ UndefinedCause i s := by
  unfold verdict UndefinedCause
  cases i.name with
  | mair2El1 => rw [checkMair2El1_undefined_iff]; cases s.ctx.el <;> simp
  | mair2El12 => rw [checkMair2El12_undefined_iff]; cases s.ctx.el <;> simp
  | mair2El2 => rw [checkMair2El2_undefined_iff]; cases s.ctx.el <;> simp

/-- The chain of tests ends in the trap to EL2 exactly in the rows of R142 that name it. -/
theorem verdict_trapEl2_iff {i : Instr} {s : State} : verdict i s = .trap .el2 ↔ TrapEl2Cause i s := by
  unfold verdict TrapEl2Cause
  cases i.name with
  | mair2El1 => rw [checkMair2El1_trap_iff]; cases s.ctx.el <;> simp
  | mair2El12 => rw [checkMair2El12_trap_iff]; cases s.ctx.el <;> simp
  | mair2El2 => rw [checkMair2El2_trap_iff]; cases s.ctx.el <;> simp

/-- The chain of tests ends in the trap to EL3 exactly in the rows of R142 that name it. -/
theorem verdict_trapEl3_iff {i : Instr} {s : State} : verdict i s = .trap .el3 ↔ TrapEl3Cause i s := by
  unfold verdict TrapEl3Cause
  cases i.name with
  | mair2El1 => rw [checkMair2El1_trap_iff]; cases s.ctx.el <;> simp; tauto
  | mair2El12 => rw [checkMair2El12_trap_iff]; cases hel : s.ctx.el <;> simp [hel]; tauto
  | mair2El2 => rw [checkMair2El2_trap_iff]; cases s.ctx.el <;> simp

/-- The word of an instruction decodes to it, and the instruction raises each exception in the rows of R142 that name
it, a trap with that word: what the statements on the accessors share. -/
theorem decodes_and_raises {i : Instr} (hwf : i.WellFormed) (s : State) :
    decode (Laws.EncodedForm.matchValue i ||| i.operand.toField.setWidth 32) = .ok i ∧
    (UndefinedCause i s → exec i s = .fault .undefined) ∧
    (TrapEl2Cause i s → exec i s =
      .fault (.sysTrap .el2 0x18#8 (Laws.EncodedForm.matchValue i ||| i.operand.toField.setWidth 32))) ∧
    (TrapEl3Cause i s → exec i s =
      .fault (.sysTrap .el3 0x18#8 (Laws.EncodedForm.matchValue i ||| i.operand.toField.setWidth 32))) := by
  rw [← encode_eq_matchValue]
  exact ⟨decode_encode hwf, fun h => exec_fault_iff.mpr (.inl ⟨verdict_undefined_iff.mpr h, rfl⟩),
    fun h => exec_fault_iff.mpr (.inr ⟨_, verdict_trapEl2_iff.mpr h, rfl⟩),
    fun h => exec_fault_iff.mpr (.inr ⟨_, verdict_trapEl3_iff.mpr h, rfl⟩)⟩

end Sys2Proof.Machine
end

section
/-! How an instruction that completes ends: the place its name reaches, the position it takes, what it leaves unchanged
and what it leaves in the records of R176. -/

namespace Sys2Proof.Machine

/-! ### The place a name reaches, and the record it is in (10_state.md section 6, R176) -/

/-- What an access under the name reaches once every test has passed, for either direction. -/
def namePlace (n : AccessorName) (s : State) : Place :=
  match n with
  | .mair2El1 => mair2El1NamePlace s
  | .mair2El12 => if s.ctx.el = .el1 then .nvmem280 else .mair2El1
  | .mair2El2 => .mair2El2

theorem place_of_reach {i : Instr} {s : State} {p : Place} (hv : verdict i s = .reach p) : p = namePlace i.name s := by
  unfold verdict at hv
  unfold namePlace
  cases hn : i.name <;> simp only [hn] at hv ⊢
  case mair2El1 => obtain ⟨-, -, -, -, hp⟩ := (checkMair2El1_reach_iff ..).mp hv; exact hp
  case mair2El12 => obtain ⟨-, -, hp⟩ := (checkMair2El12_reach_iff ..).mp hv; exact hp
  case mair2El2 => obtain ⟨-, -, hp⟩ := (checkMair2El2_reach_iff ..).mp hv; exact hp

theorem namePlace_congr {s s' : State} (hctx : s'.ctx = s.ctx) (n : AccessorName) : namePlace n s' = namePlace n s := by
  simp only [namePlace, mair2El1NamePlace, hctx]

theorem mair2El1NamePlace_eq_nvmem280_iff {s : State} :
    mair2El1NamePlace s = .nvmem280 ↔ s.ctx.el = .el1 ∧ s.ctx.nvx = 0b111#3 := by
  unfold mair2El1NamePlace; cases s.ctx.el <;> grind

theorem mair2El1NamePlace_eq_mair2El2_iff {s : State} : mair2El1NamePlace s = .mair2El2 ↔ HostAtEl2 s := by
  unfold mair2El1NamePlace; cases hel : s.ctx.el <;> grind

theorem mair2El1NamePlace_eq_mair2El1_iff {s : State} :
    mair2El1NamePlace s = .mair2El1 ↔ ¬ HostAtEl2 s ∧ ¬ (s.ctx.el = .el1 ∧ s.ctx.nvx = 0b111#3) := by
  unfold mair2El1NamePlace; cases hel : s.ctx.el <;> grind

/-- The cases of R134 are the only ones that reach the memory cell. -/
theorem nvmemCase_of_reach {i : Instr} {s : State} (hv : verdict i s = .reach .nvmem280) : NvmemCase i s := by
  have hp := (place_of_reach hv).symm
  cases hn : i.name <;> simp only [verdict, hn, namePlace] at hv hp
  case mair2El1 =>
    obtain ⟨hel, hnvx⟩ := mair2El1NamePlace_eq_nvmem280_iff.mp hp
    exact ⟨hel, .inl ⟨hn, hnvx⟩⟩
  case mair2El12 =>
    obtain ⟨-, ⟨hel, hnvx⟩ | ⟨⟨hel, -⟩, -⟩ | ⟨hel, -⟩, -⟩ := (checkMair2El12_reach_iff ..).mp hv
    · exact ⟨hel, .inr ⟨hn, hnvx⟩⟩
    · simp [hel] at hp
    · simp [hel] at hp
  case mair2El2 => cases hp

/-- `MAIR2_EL1` is reached by its own name where nothing redirects it, and by MAIR2_EL12 where EL2 is in host mode. -/
theorem reach_mair2El1 {i : Instr} {s : State} (hv : verdict i s = .reach .mair2El1) :
    (i.name = .mair2El1 ∧ ¬ HostAtEl2 s ∧ ¬ NvmemCase i s) ∨ (i.name = .mair2El12 ∧ (HostAtEl2 s ∨ HostAtEl3 s)) := by
  have hp := (place_of_reach hv).symm
  cases hn : i.name <;> simp only [verdict, hn, namePlace] at hv hp
  case mair2El1 =>
    obtain ⟨hhost, hnv⟩ := mair2El1NamePlace_eq_mair2El1_iff.mp hp
    refine .inl ⟨rfl, hhost, ?_⟩
    rintro ⟨hel, ⟨-, hnvx⟩ | ⟨hn', -⟩⟩
    · exact hnv ⟨hel, hnvx⟩
    · simp [hn] at hn'
  case mair2El12 =>
    obtain ⟨-, ⟨hel, -⟩ | ⟨hhost, -⟩ | hhost, -⟩ := (checkMair2El12_reach_iff ..).mp hv
    · simp [hel] at hp
    · exact .inr ⟨rfl, .inl hhost⟩
    · exact .inr ⟨rfl, .inr hhost⟩
  case mair2El2 => cases hp

/-- `MAIR2_EL2` is reached by the name MAIR2_EL1 at EL2 in host mode, and by its own name at EL2 and EL3. -/
theorem reach_mair2El2 {i : Instr} {s : State} (hv : verdict i s = .reach .mair2El2) :
    (i.name = .mair2El1 ∧ HostAtEl2 s) ∨ (i.name = .mair2El2 ∧ (s.ctx.el = .el2 ∨ s.ctx.el = .el3)) := by
  have hp := (place_of_reach hv).symm
  cases hn : i.name <;> simp only [verdict, hn, namePlace] at hv hp
  case mair2El1 => exact .inl ⟨rfl, mair2El1NamePlace_eq_mair2El2_iff.mp hp⟩
  case mair2El12 => split at hp <;> cases hp
  case mair2El2 =>
    obtain ⟨-, ⟨hel, -⟩ | hel, -⟩ := (checkMair2El2_reach_iff ..).mp hv
    · exact .inr ⟨rfl, .inl hel⟩
    · exact .inr ⟨rfl, .inr hel⟩

theorem mem_names_el2_iff {n : AccessorName} : n ∈ HazardPair.el2.names ↔ n ≠ .mair2El12 := by
  cases n <;> simp [HazardPair.names]

theorem mem_names_el1_iff {n : AccessorName} : n ∈ HazardPair.el1.names ↔ n ≠ .mair2El2 := by
  cases n <;> simp [HazardPair.names]

/-- Where the hazard is possible, each name of the pair reaches its register. -/
theorem namePlace_of_possible {h : HazardPair} {n : AccessorName} {s : State} (hp : h.Possible s) (hn : n ∈ h.names) :
    namePlace n s = h.place := by
  cases h with
  | el2 =>
    obtain ⟨hel, hhost⟩ : HostAtEl2 s := hp
    cases n <;> simp_all [HazardPair.names, namePlace, mair2El1NamePlace, HazardPair.place]
  | el1 =>
    obtain ⟨hel, hhost⟩ : HostAtEl3 s := hp
    cases n <;> simp_all [HazardPair.names, namePlace, mair2El1NamePlace, HazardPair.place]

/-- A completed access is recorded exactly where its name is one of a pair whose hazard is possible. -/
theorem hazardPair_iff_of_reach {i : Instr} {s : State} {p : Place} {h : HazardPair} (hv : verdict i s = .reach p) :
    hazardPair s.ctx p = some h ↔ h.Possible s ∧ i.name ∈ h.names := by
  rw [hazardPair_eq_some_iff]
  constructor
  · rintro ⟨hp, rfl⟩; exact ⟨hp, name_mem_of_reach hv hp⟩
  · rintro ⟨hp, hn⟩; exact ⟨hp, (place_of_reach hv).trans (namePlace_of_possible hp hn)⟩

/-! ### The hazard of an access that has passed its tests -/

theorem conflicts_eq_false_iff {l : List (AccessorName × AccessKind)} {n : AccessorName} {k : AccessKind} :
    conflicts l n k = false ↔ ¬ CrossNameConflict l n k := by
  rw [← Bool.not_eq_true, conflicts_iff]

theorem noHazard_iff {n : AccessorName} {k : AccessKind} {s : State} :
    NoHazard n k s ↔ ∀ h : HazardPair, h.Possible s → n ∈ h.names → conflicts (unsyncOf h s).accesses n k = false := by
  constructor
  · rintro ⟨hno2, hno1⟩ h hp hn
    cases h with
    | el2 => exact conflicts_eq_false_iff.mpr (hno2 hp (mem_names_el2_iff.mp hn))
    | el1 => exact conflicts_eq_false_iff.mpr (hno1 hp (mem_names_el1_iff.mp hn))
  · intro hno
    exact ⟨fun hp hn => conflicts_eq_false_iff.mp (hno .el2 hp (mem_names_el2_iff.mpr hn)),
      fun hp hn => conflicts_eq_false_iff.mp (hno .el1 hp (mem_names_el1_iff.mpr hn))⟩

theorem crossNameHazard_eq_false_iff {n : AccessorName} {k : AccessKind} {p : Place} {s : State} :
    crossNameHazard n k p s = false ↔
      ∀ h, hazardPair s.ctx p = some h → conflicts (unsyncOf h s).accesses n k = false := by
  unfold crossNameHazard
  cases hazardPair s.ctx p <;> simp

/-- The machine's test of R176 is the spec's, for an access that has passed its chain of tests. -/
theorem crossNameHazard_eq_false_iff_noHazard {i : Instr} {k : AccessKind} {s : State} {p : Place}
    (hv : verdict i s = .reach p) : crossNameHazard i.name k p s = false ↔ NoHazard i.name k s := by
  rw [crossNameHazard_eq_false_iff, noHazard_iff]
  exact forall_congr' fun h => by rw [hazardPair_iff_of_reach hv, and_imp]

/-! ### The state a completed instruction ends in -/

/-- The state after `i` on the place `p`, at position `j` of the order of effects, with `d` free choices taken. -/
def accessState (i : Instr) (p : Place) (j d : Nat) (s : State) : State :=
  match i.kind with
  | .read => readState i.name p i.operand j d s
  | .write => writeState i.name p i.operand j d s

/-- The positions `i` may take where it races. -/
def accessPositions (i : Instr) (p : Place) (s : State) : List Nat :=
  match i.kind with
  | .read => readPositions i.name (placeEffects p s)
  | .write => writePositions i.name (placeEffects p s)

/-- Without the hazard an access takes effect in program order by no free choice; with it the access races, by one. -/
def Arbitrated (hazard : Bool) (j d : Nat) (s : State) : Prop :=
  (hazard = false ∧ j = 0 ∧ d = s.raceDraws) ∨
    (hazard = true ∧ s.cfg.crossName = .race ∧ d = s.raceDraws + 1)

theorem arbitrate_some_arbitrated {hz : Bool} {ps : List Nat} {j : Nat} {s s1 : State} (h0 : 0 ∈ ps)
    (h : arbitrate hz ps s = some (j, s1)) : ∃ d, s1 = { s with raceDraws := d } ∧ j ∈ ps ∧ Arbitrated hz j d s := by
  rcases arbitrate_some h with ⟨hz, rfl, rfl⟩ | ⟨hz, hm, rfl, rfl⟩
  · exact ⟨_, rfl, h0, .inl ⟨hz, rfl, rfl⟩⟩
  · exact ⟨_, rfl, pickPosition_mem (List.ne_nil_of_mem h0) _, .inr ⟨hz, hm, rfl⟩⟩

/-- Where a completed instruction ends, at which position, and after how many free choices. -/
theorem exec_next_access {i : Instr} {s s' : State} (h : exec i s = .next s') :
    ∃ p j d, verdict i s = .reach p ∧ s' = accessState i p j d s ∧ j ∈ accessPositions i p s ∧
      Arbitrated (crossNameHazard i.name i.kind p s) j d s := by
  unfold accessState accessPositions
  cases hk : i.kind with
  | read =>
    obtain ⟨p, hv, ht⟩ := (exec_read_next_iff hk).mp h
    obtain ⟨j, s1, ha, -, rfl⟩ := transferRead_next ht
    obtain ⟨d, rfl, hj, harb⟩ := arbitrate_some_arbitrated (zero_mem_readPositions ..) ha
    exact ⟨p, j, d, hv, by rw [recordAccess_setRaceDraws]; rfl, hj, harb⟩
  | write =>
    obtain ⟨p, hv, ht⟩ := (exec_write_next_iff hk).mp h
    obtain ⟨j, s1, ha, -, rfl⟩ := transferWrite_next ht
    obtain ⟨d, rfl, hj, harb⟩ := arbitrate_some_arbitrated (zero_mem_writePositions ..) ha
    exact ⟨p, j, d, hv, by rw [recordAccess_setRaceDraws, writeAt_setRaceDraws]; rfl, hj, harb⟩

/-- An instruction that passes its tests, meets no hazard and has room for the next `pc` completes in program order. -/
theorem exec_completes_inOrder {i : Instr} {s : State} {p : Place} (hv : verdict i s = .reach p) (hpc : PcHasRoom s)
    (hno : NoHazard i.name i.kind s) : exec i s = .next (accessState i p 0 s.raceDraws s) := by
  have hz := (crossNameHazard_eq_false_iff_noHazard hv).mpr hno
  obtain ⟨s', hs⟩ : ∃ s', exec i s = .next s' := by
    cases hk : i.kind with
    | read => rw [hk] at hz; exact ⟨_, (exec_read_next_iff hk).mpr ⟨p, hv, transferRead_inOrder hz hpc⟩⟩
    | write => rw [hk] at hz; exact ⟨_, (exec_write_next_iff hk).mpr ⟨p, hv, transferWrite_inOrder hz hpc⟩⟩
  obtain ⟨q, j, d, hv', rfl, -, harb⟩ := exec_next_access hs
  obtain rfl : p = q := Verdict.reach.inj (hv.symm.trans hv')
  rcases harb with ⟨-, rfl, rfl⟩ | ⟨hrace, -⟩
  · exact hs
  · simp [hz] at hrace

/-! ### `MAIR2_EL2` as RES0 (10_state.md R24) -/

theorem mair2El2RazWi_iff {s : State} : mair2El2RazWi s = true ↔ Res0Access s ∧ s.cfg.res0Mode = .razWi := by
  simp [mair2El2RazWi, mair2El2IsRes0, Res0Access]

theorem mair2El2RazWi_of_not_res0 {s : State} (h : ¬ Res0Access s) : mair2El2RazWi s = false :=
  Bool.eq_false_iff.mpr fun hr => h (mair2El2RazWi_iff.mp hr).1

theorem mair2El2RazWi_congr {s s' : State} (hcfg : s'.cfg = s.cfg) (hctx : s'.ctx = s.ctx) :
    mair2El2RazWi s' = mair2El2RazWi s := by
  simp only [mair2El2RazWi, mair2El2IsRes0, hcfg, hctx]

/-! ### What a completed instruction leaves unchanged, and what it leaves in its place -/

section
variable (n : AccessorName) (p : Place) (t : XReg) (j d : Nat) (s : State)

theorem readX_readState_same {t : XReg} (ht : t.WellFormed) :
    readX t (readState n p t j d s) =
      if t = .xzr then 0#64 else valueAt (placeEffects p s) (readPlace p s) j := by
  cases t with
  | xzr => rfl
  | x m =>
    have hm : m ≤ 30 := by simpa [XReg.WellFormed, XReg.wellFormed] using ht
    rw [if_neg nofun]
    exact readX_writeX_same hm _ (recordAccess ..)

theorem readX_readState_other {r t : XReg} (hrt : r ≠ t) : readX r (readState n p t j d s) = readX r s :=
  (readX_writeX_other hrt _ (recordAccess ..)).trans (readX_recordAccess ..)

theorem samePlaces_readState : SamePlaces s (readState n p t j d s) :=
  ⟨readState_mair2El1 .., readState_mair2El2 .., by simp [readState]⟩

theorem sameSurroundings_readState : SameSurroundings s (readState n p t j d s) :=
  ⟨readState_cfg .., readState_ctx .., by simp [readState], fun a => by rw [readState_mem]⟩

theorem sameRegs_writeState : SameRegs s (writeState n p t j d s) := fun r => readX_congr (by simp [writeState]) r

theorem sameSurroundings_writeState : SameSurroundings s (writeState n p t j d s) :=
  ⟨writeState_cfg .., writeState_ctx .., by simp [writeState], fun a => by rw [writeState_mem]⟩

theorem nvmem280_writeState_other {p : Place} (hp : p ≠ .nvmem280) :
    (writeState n p t j d s).nvmem280 = s.nvmem280 := by
  have hw : (writeState n p t j d s).nvmem280 =
      (writeAt p (readX t s) j (recordAccess n .write p j (readX t s) s)).nvmem280 := rfl
  rw [hw]
  cases j with
  | succ j => simp
  | zero =>
    cases p with
    | mair2El1 => simp [writePlace]
    | mair2El2 => simp only [writeAt_zero, writePlace]; split <;> simp
    | nvmem280 => exact absurd rfl hp

/-- A write in program order leaves its value in the place it reaches, unless that ignores it (R24). -/
theorem placeBecomes_writeState (hr : p = .mair2El2 → mair2El2RazWi s = false) :
    PlaceBecomes p (readX t s) s (writeState n p t 0 d s) := by
  cases p with
  | mair2El1 => simp [PlaceBecomes, writeState, writePlace]
  | nvmem280 => simp [PlaceBecomes, writeState, writePlace]
  | mair2El2 =>
    have hraz : ∀ v, mair2El2RazWi (recordAccess n .write .mair2El2 0 v s) = false := fun v =>
      (mair2El2RazWi_congr (recordAccess_cfg ..) (recordAccess_ctx ..)).trans (hr rfl)
    simp [PlaceBecomes, writeState, writePlace, hraz]

end

/-- What a place holds is what a read of it returns, unless it reads as zero (R24). -/
theorem readPlace_of_placeBecomes {p : Place} {v : Word} {s s' : State} (h : PlaceBecomes p v s s')
    (hr : p = .mair2El2 → mair2El2RazWi s' = false) : readPlace p s' = v := by
  cases p with
  | mair2El1 => obtain ⟨hv, -⟩ := h; exact hv
  | mair2El2 => obtain ⟨hv, -⟩ := h; simp [readPlace, hr rfl, hv]
  | nvmem280 => obtain ⟨hv, -⟩ := h; exact hv

/-- A completed read in program order is what R100, R110 and R120 say of it. -/
theorem readDone_readState (n : AccessorName) (p : Place) {t : XReg} (ht : t.WellFormed) (d : Nat) (s : State) :
    ReadDone t (readPlace p s) s (readState n p t 0 d s) :=
  ⟨readX_readState_same n p 0 d s ht, fun _ hr => readX_readState_other n p 0 d s hr, rfl,
    samePlaces_readState .., sameSurroundings_readState ..⟩

/-- A completed write in program order is what R101, R111 and R121 say of it. -/
theorem writeDone_writeState (n : AccessorName) (p : Place) (t : XReg) (d : Nat) (s : State)
    (hr : p = .mair2El2 → mair2El2RazWi s = false) : WriteDone p (readX t s) s (writeState n p t 0 d s) :=
  ⟨placeBecomes_writeState n p t d s hr, sameRegs_writeState n p t 0 d s, rfl, sameSurroundings_writeState ..⟩

/-! ### The records after a completed instruction (R176) -/

/-- The value an access moves at position `j`. -/
def accessValue (i : Instr) (p : Place) (j : Nat) (s : State) : Word :=
  match i.kind with
  | .read => valueAt (placeEffects p s) (readPlace p s) j
  | .write => readX i.operand s

theorem afterAccess_accessState (i : Instr) (p : Place) (j d : Nat) (s : State) :
    AfterAccess i.name i.kind p j (accessValue i p j s) s (accessState i p j d s) := by
  unfold accessState accessValue
  cases i.kind with
  | read => exact afterAccess_readState ..
  | write => exact afterAccess_writeState ..

theorem accessState_raceDraws (i : Instr) (p : Place) (j d : Nat) (s : State) :
    (accessState i p j d s).raceDraws = d := by
  unfold accessState; cases i.kind <;> rfl

/-- A record changes only where the access is one of its pair's, the hazard being possible. -/
theorem AfterAccess.unsyncOf_eq {i : Instr} {p : Place} {j : Nat} {v : Word} {s s' : State}
    (ha : AfterAccess i.name i.kind p j v s s') (hv : verdict i s = .reach p) {h : HazardPair}
    (hno : ¬ (h.Possible s ∧ i.name ∈ h.names)) : unsyncOf h s' = unsyncOf h s := by
  rw [ha.record, unsyncOf_recordAccess, if_neg (mt (hazardPair_iff_of_reach hv).mp hno)]

theorem effectOrder_eq_effectsFound (u : Unsync) (current : Word) :
    effectOrder u current = effectsFound u.effects current := by
  simp [effectOrder, effectsFound]

/-- An access in program order extends the record of its pair at the end. -/
theorem AfterAccess.extendedInOrder {i : Instr} {p : Place} {v : Word} {s s' : State}
    (ha : AfterAccess i.name i.kind p 0 v s s') (hv : verdict i s = .reach p) {h : HazardPair} (hp : h.Possible s)
    (hn : i.name ∈ h.names) : ExtendedInOrder i.name i.kind v (h.held s) (unsyncOf h s) (unsyncOf h s') := by
  have hpair := (hazardPair_iff_of_reach hv).mpr ⟨hp, hn⟩
  obtain ⟨-, rfl⟩ := hazardPair_eq_some_iff.mp hpair
  rw [ha.record, unsyncOf_recordAccess, if_pos hpair, placeEffects_of_possible hp, effectOrder_eq_effectsFound]
  exact ⟨rfl, rfl⟩

/-- The records after an access that met no hazard are those R176 says. -/
theorem AfterAccess.recordsExtended {i : Instr} {p : Place} {v : Word} {s s' : State}
    (ha : AfterAccess i.name i.kind p 0 v s s') (hv : verdict i s = .reach p) (hd : s'.raceDraws = s.raceDraws) :
    RecordsExtended i.name i.kind v s s' := by
  have hel : HostAtEl2 s → ¬ HostAtEl3 s := by
    rintro ⟨h2, -⟩ ⟨h3, -⟩; simp [h2] at h3
  refine ⟨?_, ?_, ?_, hd⟩
  · rintro ⟨hp, hn⟩
    exact ⟨ha.extendedInOrder hv (h := .el2) hp (mem_names_el2_iff.mpr hn),
      ha.unsyncOf_eq hv (h := .el1) fun ⟨hp1, _⟩ => hel hp hp1⟩
  · rintro ⟨hp, hn⟩
    exact ⟨ha.extendedInOrder hv (h := .el1) hp (mem_names_el1_iff.mpr hn),
      ha.unsyncOf_eq hv (h := .el2) fun ⟨hp2, _⟩ => hel hp2 hp⟩
  · intro hno2 hno1
    exact ⟨ha.unsyncOf_eq hv (h := .el2) (by rwa [mem_names_el2_iff]),
      ha.unsyncOf_eq hv (h := .el1) (by rwa [mem_names_el1_iff])⟩

/-- What an access that completed, raced or not, may have changed of the records and of the count of free choices. -/
theorem recordsFrame_of_next {i : Instr} {s s' : State} (h : exec i s = .next s') : RecordsFrame i s s' := by
  obtain ⟨p, j, d, hv, rfl, -, harb⟩ := exec_next_access h
  have ha := afterAccess_accessState i p j d s
  have hno := crossNameHazard_eq_false_iff_noHazard (k := i.kind) hv
  have hdraws := accessState_raceDraws i p j d s
  refine ⟨fun hne => ?_, fun hne => ?_, fun hnone => ?_, fun hsome => ?_⟩
  · obtain ⟨hp, hn⟩ := not_not.mp fun hnot => hne (ha.unsyncOf_eq hv (h := .el2) hnot)
    exact ⟨hp, mem_names_el2_iff.mp hn⟩
  · obtain ⟨hp, hn⟩ := not_not.mp fun hnot => hne (ha.unsyncOf_eq hv (h := .el1) hnot)
    exact ⟨hp, mem_names_el1_iff.mp hn⟩
  · rcases harb with ⟨-, -, hd⟩ | ⟨hz, -⟩
    · rw [hdraws, hd]
    · simp [hno.mpr hnone] at hz
  · rcases harb with ⟨hz, -⟩ | ⟨-, hm, hd⟩
    · exact absurd (hno.mp hz) hsome
    · exact ⟨hm, by rw [hdraws, hd]⟩

end Sys2Proof.Machine
end

section
/-! The accessors of the name MAIR2_EL1, the frames of all six, and a read after a write under one name. -/

namespace Sys2Proof.Machine

/-! ### The name MAIR2_EL1 (40_mair2_el1_access.md R100, R101) -/

/-- The name MAIR2_EL1 reaches `MAIR2_EL2` from EL2 only, where it is not RES0 (R24). -/
theorem mair2El1NamePlace_notRes0 {s : State} (hp : mair2El1NamePlace s = .mair2El2) : mair2El2RazWi s = false :=
  mair2El2RazWi_of_possible (mair2El1NamePlace_eq_mair2El2_iff.mp hp)

theorem readPlace_mair2El1NamePlace (s : State) : readPlace (mair2El1NamePlace s) s = mair2El1NameValue s := by
  unfold mair2El1NamePlace mair2El1NameValue
  cases hel : s.ctx.el with
  | el0 => rfl
  | el1 => dsimp only; split <;> rfl
  | el2 =>
    have hraz : mair2El2RazWi s = false := mair2El2RazWi_of_not_res0 (by simp [hel])
    dsimp only
    split
    · simp [readPlace, hraz]
    · rfl
  | el3 => rfl

/-- Settles O14: clauses (0) to (2e) and (3a) to (3c) are the chain's exceptions; otherwise it completes. -/
theorem mrsMair2El1RaisesOrCompletes : Obligations.MrsMair2El1RaisesOrCompletes := by
  intro t s ht
  obtain ⟨hdec, hundef, htrap2, htrap3⟩ := decodes_and_raises (i := .mrsMair2El1 t) ht s
  refine ⟨hdec, hundef, htrap2, htrap3, fun hpres hpc hel0 hel1 haie hno => ?_⟩
  have hv : verdict (.mrsMair2El1 t) s = .reach (mair2El1NamePlace s) :=
    (checkMair2El1_reach_iff .read s _).mpr ⟨hpres, hel0, hel1, haie, rfl⟩
  refine ⟨_, exec_completes_inOrder hv hpc hno, ?_⟩
  rw [← readPlace_mair2El1NamePlace]
  exact ⟨readDone_readState .mair2El1 _ ht _ s,
    (afterAccess_accessState (.mrsMair2El1 t) _ 0 s.raceDraws s).recordsExtended hv rfl⟩

/-- Settles O15: as for the read, with the EL2 trap of a write. -/
theorem msrMair2El1RaisesOrCompletes : Obligations.MsrMair2El1RaisesOrCompletes := by
  intro t s ht
  obtain ⟨hdec, hundef, htrap2, htrap3⟩ := decodes_and_raises (i := .msrMair2El1 t) ht s
  refine ⟨hdec, hundef, htrap2, htrap3, fun hpres hpc hel0 hel1 haie hno => ?_⟩
  have hv : verdict (.msrMair2El1 t) s = .reach (mair2El1NamePlace s) :=
    (checkMair2El1_reach_iff .write s _).mpr ⟨hpres, hel0, hel1, haie, rfl⟩
  exact ⟨_, exec_completes_inOrder hv hpc hno,
    writeDone_writeState .mair2El1 _ t _ s mair2El1NamePlace_notRes0,
    (afterAccess_accessState (.msrMair2El1 t) _ 0 s.raceDraws s).recordsExtended hv rfl⟩

/-! ### Frames (10_state.md sections 3 and 6) -/

theorem accessState_of_read {i : Instr} (hk : i.kind = .read) (p : Place) (j d : Nat) (s : State) :
    accessState i p j d s = readState i.name p i.operand j d s := by
  simp only [accessState, hk]

theorem accessState_of_write {i : Instr} (hk : i.kind = .write) (p : Place) (j d : Nat) (s : State) :
    accessState i p j d s = writeState i.name p i.operand j d s := by
  simp only [accessState, hk]

/-- Settles O21: the one state a completed read ends in, field by field. -/
theorem mrsFrame : Obligations.MrsFrame := by
  intro i s s' hk h
  have hrec := recordsFrame_of_next h
  obtain ⟨p, j, d, -, rfl, -, -⟩ := exec_next_access h
  rw [accessState_of_read hk] at hrec ⊢
  exact ⟨fun r hr => readX_readState_other i.name p j d s hr, rfl, samePlaces_readState ..,
    sameSurroundings_readState .., hrec⟩

/-- Settles O22: a place that changed is the one place the name reaches. -/
theorem msrFrame : Obligations.MsrFrame := by
  intro i s s' hk h
  have hrec := recordsFrame_of_next h
  obtain ⟨p, j, d, hv, rfl, -, -⟩ := exec_next_access h
  have ha := afterAccess_accessState i p j d s
  rw [accessState_of_write hk] at hrec ha ⊢
  refine ⟨sameRegs_writeState i.name p i.operand j d s, rfl, sameSurroundings_writeState .., hrec,
    fun hne => ?_, fun hne => ?_, fun hne => ?_⟩
  · obtain rfl : p = .nvmem280 := not_not.mp fun hp => hne (nvmem280_writeState_other _ _ _ _ _ hp)
    exact nvmemCase_of_reach hv
  · obtain rfl : p = .mair2El1 := not_not.mp fun hp => hne (ha.other .el1 hp)
    exact reach_mair2El1 hv
  · obtain rfl : p = .mair2El2 := not_not.mp fun hp => hne (ha.other .el2 hp)
    exact reach_mair2El2 hv

/-! ### A read after a write under the same name (R103, R70) -/

/-- A recorded access does not conflict with an access under its own name. -/
theorem conflicts_append_same (l : List (AccessorName × AccessKind)) (n : AccessorName) (k k' : AccessKind) :
    conflicts (l ++ [(n, k)]) n k' = conflicts l n k' := by
  simp [conflicts]

/-- An access leaves the hazard of its own name as it found it. -/
theorem AfterAccess.crossNameHazard_eq {n : AccessorName} {k : AccessKind} {p : Place} {j : Nat} {v : Word}
    {s s' : State} (ha : AfterAccess n k p j v s s') (k' : AccessKind) :
    crossNameHazard n k' p s' = crossNameHazard n k' p s := by
  unfold crossNameHazard
  rw [ha.ctx]
  cases hpair : hazardPair s.ctx p with
  | none => rfl
  | some h => simp only [ha.record, unsyncOf_recordAccess, hpair, if_true, conflicts_append_same]

/-- Each effect under a name is of a recorded access. -/
theorem InOrder.recorded {a : List (AccessorName × AccessKind)} {l : List Effect} {current : Word}
    (h : InOrder a l current) {e : Effect} (he : e ∈ l) {m : AccessorName} (hs : e.source = some m) :
    (m, e.kind) ∈ a := by
  have hmem : e.kind ∈ kindsInEffect m l :=
    List.mem_reverse.mpr (List.mem_map_of_mem (List.mem_filter.mpr ⟨he, by simpa using hs⟩))
  rw [h.kinds m] at hmem
  obtain ⟨f, hf, hkind⟩ := List.mem_map.mp hmem
  obtain ⟨hfa, hname⟩ := List.mem_filter.mp hf
  have hfm : f.1 = m := by simpa using hname
  rwa [← hfm, ← hkind]

theorem PairInv.inOrder {h : HazardPair} {s : State} (hinv : PairInv h s) (hp : h.Possible s) :
    InOrder (unsyncOf h s).accesses (placeEffects h.place s) (readPlace h.place s) := by
  rw [placeEffects_of_possible hp, readPlace_of_possible hp]
  exact RecordInv.inOrder hinv

/-- Where a read under the name meets no hazard, what took effect under another name since the last synchronisation is
reads. -/
theorem other_effects_read {i : Instr} {p : Place} {s : State} (hinv : ∀ h, PairInv h s)
    (hz : crossNameHazard i.name .read p s = false) {e : Effect} (he : e ∈ placeEffects p s) (hsync : e.source ≠ none)
    (hother : e.source ≠ some i.name) : e.kind = .read := by
  obtain ⟨m, hm⟩ := Option.ne_none_iff_exists'.mp hsync
  cases hpair : hazardPair s.ctx p with
  | none =>
    simp only [placeEffects, hpair, List.mem_singleton] at he
    exact absurd (congrArg Effect.source he) hsync
  | some h =>
    obtain ⟨hp, rfl⟩ := hazardPair_eq_some_iff.mp hpair
    have hrec := ((hinv h).inOrder hp).recorded he hm
    have hne : m ≠ i.name := fun hmn => hother (by rw [hm, hmn])
    exact (reads_of_not_conflicts (crossNameHazard_eq_false_iff.mp hz h hpair) hrec hne).1

/-- Where all that could be overtaken is reads, a write takes effect last: no value already returned may change. -/
theorem writePositions_eq_zero {n : AccessorName} {l : List Effect} {j : Nat}
    (hreads : ∀ e ∈ l, e.source ≠ none → e.source ≠ some n → e.kind = .read) (hj : j ∈ writePositions n l) : j = 0 := by
  cases j with
  | zero => rfl
  | succ j =>
    obtain ⟨hpos, hnext⟩ := List.mem_filter.mp hj
    have hle : j + 1 ≤ overtakable n l := by simpa [readPositions, Nat.lt_succ_iff] using hpos
    obtain ⟨hlen, hnewer⟩ := split_of_le_overtakable hle
    have hget : l[j]? = some l[j] := List.getElem?_eq_getElem hlen
    obtain ⟨hsync, hother⟩ := hnewer l[j] (List.mem_take_iff_getElem.mpr ⟨j, by omega, rfl⟩)
    have hread := hreads l[j] (List.getElem_mem hlen) hsync hother
    simp [nextIsWrite, hget, hread] at hnext

/-- RES0 apart, the place an access reaches holds what is written to it (R24). -/
theorem notRes0_of_reach {i : Instr} {s : State} {p : Place} (hv : verdict i s = .reach p)
    (hres0 : i.name = .mair2El2 → ¬ Res0Access s) (hp : p = .mair2El2) : mair2El2RazWi s = false := by
  subst hp
  rcases reach_mair2El2 hv with ⟨-, hhost⟩ | ⟨hn, -⟩
  · exact mair2El2RazWi_of_possible hhost
  · exact mair2El2RazWi_of_not_res0 (hres0 hn)

/-- Under the premise R103 is stated with, an access can race only where no write under another name is
unsynchronised. -/
theorem pairInv_and_noHazard_of_race {i : Instr} {p : Place} {s : State} (hv : verdict i s = .reach p)
    (hmode : s.cfg.crossName = .refuse ∨ (Inv s ∧ NoHazard i.name .read s)) (hrace : s.cfg.crossName = .race) :
    (∀ h, PairInv h s) ∧ crossNameHazard i.name .read p s = false := by
  rcases hmode with hrefuse | ⟨hinv, hno⟩
  · simp [hrace] at hrefuse
  · obtain ⟨-, -, hpairs⟩ := inv_iff.mp hinv
    exact ⟨hpairs, (crossNameHazard_eq_false_iff_noHazard hv).mpr hno⟩

/-- Settles O25: the write takes effect last, so its place holds its value; the read that follows meets no hazard. -/
theorem sameNameReadReturnsTheWrite : Obligations.SameNameReadReturnsTheWrite := by
  intro i j s s1 s2 hki hkj hname hwf hmode hres0 hi hj
  obtain ⟨p, a, d, hvi, rfl, hpos, harbi⟩ := exec_next_access hi
  obtain rfl : a = 0 := by
    rcases harbi with ⟨-, ha, -⟩ | ⟨-, hrace, -⟩
    · exact ha
    · obtain ⟨hpairs, hz⟩ := pairInv_and_noHazard_of_race hvi hmode hrace
      simp only [accessPositions, hki] at hpos
      exact writePositions_eq_zero (fun e he => other_effects_read hpairs hz he) hpos
  have hwrite := afterAccess_accessState i p 0 d s
  obtain ⟨q, b, d', hvj, rfl, -, harbj⟩ := exec_next_access hj
  obtain rfl : q = p := by
    rw [place_of_reach hvj, ← hname, namePlace_congr hwrite.ctx, ← place_of_reach hvi]
  obtain rfl : b = 0 := by
    rcases harbj with ⟨-, hb, -⟩ | ⟨hhazard, hrace, -⟩
    · exact hb
    · obtain ⟨-, hz⟩ := pairInv_and_noHazard_of_race hvi hmode (hwrite.cfg ▸ hrace)
      rw [hkj, ← hname, hwrite.crossNameHazard_eq, hz] at hhazard
      cases hhazard
  have hraz : q = .mair2El2 → mair2El2RazWi s = false := notRes0_of_reach hvi hres0
  rw [accessState_of_read hkj, readX_readState_same _ _ _ _ _ hwf, accessState_of_write hki]
  exact congrArg _ (readPlace_of_placeBecomes (placeBecomes_writeState i.name q i.operand d s hraz) fun hq =>
    (mair2El2RazWi_congr (writeState_cfg ..) (writeState_ctx ..)).trans (hraz hq))

end Sys2Proof.Machine
end

section
/-! The accessors of the name MAIR2_EL12: where each raises an exception, and where and how it completes. -/

namespace Sys2Proof.Machine

/-! ### The name MAIR2_EL12 (41_mair2_el12_access.md R110, R111) -/

/-- The records tell the value of an access only where the hazard is possible (R176). -/
theorem RecordsExtended.congr_value {n : AccessorName} {k : AccessKind} {v w : Word} {s s' : State}
    (hr : RecordsExtended n k v s s') (hvw : HostAtEl2 s ∨ HostAtEl3 s → v = w) : RecordsExtended n k w s s' := by
  obtain ⟨h2, h3, helse⟩ := hr
  refine ⟨fun hp => ?_, fun hp => ?_, helse⟩
  · exact hvw (.inl hp.1) ▸ h2 hp
  · exact hvw (.inr hp.1) ▸ h3 hp

/-- The memory cell at EL1, `MAIR2_EL1` at EL2 and EL3 (R110 clauses (2a), (3d), (4a)). -/
theorem readPlace_namePlace_mair2El12 (s : State) :
    readPlace (namePlace .mair2El12 s) s = if s.ctx.el = .el1 then s.nvmem280 else s.mair2El1 := by
  unfold namePlace; dsimp only; split <;> rfl

/-- Settles O16: clauses (0) to (2c) but (2a), (3a) to (3c), (3e) and (4b) are the chain's exceptions; otherwise it
completes. At EL1, where the cell is read, nothing is recorded. -/
theorem mrsMair2El12RaisesOrCompletes : Obligations.MrsMair2El12RaisesOrCompletes := by
  intro t s ht
  obtain ⟨hdec, hundef, htrap2, htrap3⟩ := decodes_and_raises (i := .mrsMair2El12 t) ht s
  refine ⟨hdec, hundef, htrap2, htrap3, fun hpres hpc hreach hno => ?_⟩
  have hv : verdict (.mrsMair2El12 t) s = .reach (namePlace .mair2El12 s) :=
    (checkMair2El12_reach_iff s _).mpr ⟨hpres, hreach, rfl⟩
  have hrec := (afterAccess_accessState (.mrsMair2El12 t) _ 0 s.raceDraws s).recordsExtended hv rfl
  have hdone := readDone_readState .mair2El12 (namePlace .mair2El12 s) ht s.raceDraws s
  have hval := readPlace_namePlace_mair2El12 s
  refine ⟨_, exec_completes_inOrder hv hpc hno, hval ▸ hdone, hrec.congr_value fun hhost => hval.trans (if_neg ?_)⟩
  intro hel1
  rcases hhost with ⟨hel, -⟩ | ⟨hel, -⟩ <;> simp [hel1] at hel

/-- Settles O17: as for the read, in the same three cases. -/
theorem msrMair2El12RaisesOrCompletes : Obligations.MsrMair2El12RaisesOrCompletes := by
  intro t s ht
  obtain ⟨hdec, hundef, htrap2, htrap3⟩ := decodes_and_raises (i := .msrMair2El12 t) ht s
  refine ⟨hdec, hundef, htrap2, htrap3, fun hpres hpc hreach hno => ?_⟩
  have hv : verdict (.msrMair2El12 t) s = .reach (namePlace .mair2El12 s) :=
    (checkMair2El12_reach_iff s _).mpr ⟨hpres, hreach, rfl⟩
  exact ⟨_, exec_completes_inOrder hv hpc hno,
    writeDone_writeState .mair2El12 _ t _ s (notRes0_of_reach hv nofun),
    (afterAccess_accessState (.msrMair2El12 t) _ 0 s.raceDraws s).recordsExtended hv rfl⟩

end Sys2Proof.Machine
end

section
/-! A place an instruction does not reach is neither read nor written by it: whatever stands there, the instruction
answers the same and leaves it there. -/

namespace Sys2Proof.Machine

/-! ### Another value in a place -/

/-- `s` with `v` held in the place, whatever R24 says of a write to it. -/
def setHeld (q : Place) (v : Word) (s : State) : State :=
  match q with
  | .mair2El1 => { s with mair2El1 := v }
  | .mair2El2 => { s with mair2El2 := v }
  | .nvmem280 => { s with nvmem280 := v }

section
variable (q : Place) (v w : Word) (s : State)

@[simp] theorem setHeld_cfg : (setHeld q v s).cfg = s.cfg := by cases q <;> rfl
@[simp] theorem setHeld_ctx : (setHeld q v s).ctx = s.ctx := by cases q <;> rfl
@[simp] theorem setHeld_regs : (setHeld q v s).regs = s.regs := by cases q <;> rfl
@[simp] theorem setHeld_pc : (setHeld q v s).pc = s.pc := by cases q <;> rfl
@[simp] theorem setHeld_raceDraws : (setHeld q v s).raceDraws = s.raceDraws := by cases q <;> rfl
@[simp] theorem unsyncOf_setHeld (h : HazardPair) : unsyncOf h (setHeld q v s) = unsyncOf h s := by
  cases h <;> cases q <;> rfl

@[simp] theorem readX_setHeld (t : XReg) : readX t (setHeld q v s) = readX t s := readX_congr (setHeld_regs ..) t

theorem writeX_setHeld (t : XReg) : writeX t w (setHeld q v s) = setHeld q v (writeX t w s) := by
  cases q <;> rfl

theorem setUnsync_setHeld (h : HazardPair) (u : Unsync) :
    setUnsync h u (setHeld q v s) = setHeld q v (setUnsync h u s) := by
  cases h <;> cases q <;> rfl

@[simp] theorem crossNameHazard_setHeld (n : AccessorName) (k : AccessKind) (p : Place) :
    crossNameHazard n k p (setHeld q v s) = crossNameHazard n k p s := by
  simp only [crossNameHazard, setHeld_ctx, unsyncOf_setHeld]

@[simp] theorem verdict_setHeld (i : Instr) : verdict i (setHeld q v s) = verdict i s := by
  simp only [verdict, setHeld_cfg, setHeld_ctx]

theorem arbitrate_setHeld (hz : Bool) (ps : List Nat) :
    arbitrate hz ps (setHeld q v s) = (arbitrate hz ps s).map (Prod.map id (setHeld q v)) := by
  unfold arbitrate
  rw [setHeld_cfg, setHeld_raceDraws]
  cases hz with
  | false => rfl
  | true =>
    cases s.cfg.crossName with
    | refuse => rfl
    | race => cases q <;> rfl

theorem complete_setHeld : complete (setHeld q v s) = mapNext (setHeld q v) (complete s) := by
  unfold complete
  rw [setHeld_pc]
  split
  · rfl
  · cases q <;> rfl

end

/-! ### A transfer with another place -/

theorem setHeld_mair2El1_other {q : Place} (hq : .mair2El1 ≠ q) (v : Word) (s : State) :
    (setHeld q v s).mair2El1 = s.mair2El1 := by
  cases q with
  | mair2El1 => exact absurd rfl hq
  | _ => rfl

theorem setHeld_mair2El2_other {q : Place} (hq : .mair2El2 ≠ q) (v : Word) (s : State) :
    (setHeld q v s).mair2El2 = s.mair2El2 := by
  cases q with
  | mair2El2 => exact absurd rfl hq
  | _ => rfl

theorem setHeld_nvmem280_other {q : Place} (hq : .nvmem280 ≠ q) (v : Word) (s : State) :
    (setHeld q v s).nvmem280 = s.nvmem280 := by
  cases q with
  | nvmem280 => exact absurd rfl hq
  | _ => rfl

@[simp] theorem mair2El2RazWi_setHeld (q : Place) (v : Word) (s : State) :
    mair2El2RazWi (setHeld q v s) = mair2El2RazWi s :=
  mair2El2RazWi_congr (setHeld_cfg ..) (setHeld_ctx ..)

section
variable {p q : Place} (hpq : p ≠ q) (v w : Word) (s : State)
include hpq

theorem setHeld_comm : setHeld p w (setHeld q v s) = setHeld q v (setHeld p w s) := by
  cases p with
  | mair2El1 => cases q with
    | mair2El1 => exact absurd rfl hpq
    | _ => rfl
  | mair2El2 => cases q with
    | mair2El2 => exact absurd rfl hpq
    | _ => rfl
  | nvmem280 => cases q with
    | nvmem280 => exact absurd rfl hpq
    | _ => rfl

theorem readPlace_setHeld_other : readPlace p (setHeld q v s) = readPlace p s := by
  cases p with
  | mair2El1 => exact setHeld_mair2El1_other hpq v s
  | mair2El2 => simp only [readPlace, mair2El2RazWi_setHeld, setHeld_mair2El2_other hpq]
  | nvmem280 => exact setHeld_nvmem280_other hpq v s

theorem writePlace_setHeld_other : writePlace p w (setHeld q v s) = setHeld q v (writePlace p w s) := by
  have hcomm := setHeld_comm hpq v w s
  cases p with
  | mair2El1 => exact hcomm
  | mair2El2 =>
    simp only [writePlace, mair2El2RazWi_setHeld]
    split
    · rfl
    · exact hcomm
  | nvmem280 => exact hcomm

theorem writeAt_setHeld_other (j : Nat) : writeAt p w j (setHeld q v s) = setHeld q v (writeAt p w j s) := by
  cases j with
  | zero => exact writePlace_setHeld_other hpq v w s
  | succ j => rfl

theorem placeEffects_setHeld_other : placeEffects p (setHeld q v s) = placeEffects p s := by
  simp only [placeEffects, setHeld_ctx, unsyncOf_setHeld, readPlace_setHeld_other hpq]

theorem recordAccess_setHeld_other (n : AccessorName) (k : AccessKind) (j : Nat) :
    recordAccess n k p j w (setHeld q v s) = setHeld q v (recordAccess n k p j w s) := by
  simp only [recordAccess, setHeld_ctx, unsyncOf_setHeld, placeEffects_setHeld_other hpq]
  cases hazardPair s.ctx p with
  | none => rfl
  | some h => exact setUnsync_setHeld ..

theorem transferRead_setHeld_other (n : AccessorName) (t : XReg) :
    transferRead n p t (setHeld q v s) = mapNext (setHeld q v) (transferRead n p t s) := by
  simp only [transferRead, crossNameHazard_setHeld, placeEffects_setHeld_other hpq, readPlace_setHeld_other hpq,
    arbitrate_setHeld]
  cases arbitrate (crossNameHazard n .read p s) (readPositions n (placeEffects p s)) s with
  | none => rfl
  | some js =>
    simp only [Option.map_some, Prod.map, id, recordAccess_setHeld_other hpq, writeX_setHeld, complete_setHeld]

theorem transferWrite_setHeld_other (n : AccessorName) (t : XReg) :
    transferWrite n p t (setHeld q v s) = mapNext (setHeld q v) (transferWrite n p t s) := by
  simp only [transferWrite, crossNameHazard_setHeld, placeEffects_setHeld_other hpq, readX_setHeld, arbitrate_setHeld]
  cases arbitrate (crossNameHazard n .write p s) (writePositions n (placeEffects p s)) s with
  | none => rfl
  | some js =>
    simp only [Option.map_some, Prod.map, id, recordAccess_setHeld_other hpq, writeAt_setHeld_other hpq,
      complete_setHeld]

end

/-! ### An instruction that reaches another place, or none -/

theorem perform_setHeld {vd : Verdict} {q : Place} (hq : vd ≠ .reach q) (k : AccessKind) (n : AccessorName)
    (w : InsnWord) (t : XReg) (v : Word) (s : State) :
    perform k n w vd t (setHeld q v s) = mapNext (setHeld q v) (perform k n w vd t s) := by
  cases vd with
  | undefined => cases k <;> rfl
  | trap g => cases k <;> rfl
  | reach p =>
    have hpq : p ≠ q := fun he => hq (congrArg Verdict.reach he)
    cases k with
    | read => exact transferRead_setHeld_other hpq v s n t
    | write => exact transferWrite_setHeld_other hpq v s n t

/-- An instruction whose tests do not end in the place neither reads nor writes it. -/
theorem exec_setHeld {i : Instr} {q : Place} {s : State} (hq : verdict i s ≠ .reach q) (v : Word) :
    exec i (setHeld q v s) = mapNext (setHeld q v) (exec i s) := by
  rw [exec_eq_perform, exec_eq_perform, verdict_setHeld]
  exact perform_setHeld hq ..

/-- Settles O33: at EL2 in host mode the tests of the other two names do not end in `MAIR2_EL1`. -/
theorem hostAtEl2ReachesMair2El1ByOneName : Obligations.HostAtEl2ReachesMair2El1ByOneName := by
  intro i s v hhost hname
  refine exec_setHeld (q := .mair2El1) (fun hv => ?_) v
  rcases reach_mair2El1 hv with ⟨-, hnot, -⟩ | ⟨hn, -⟩
  · exact hnot hhost
  · exact hname hn

end Sys2Proof.Machine
end

section
/-! The accessors of the name MAIR2_EL2: where each raises an exception, and where and how it completes, the register
being RES0 from EL3 without EL2 (R24). -/

namespace Sys2Proof.Machine

/-! ### The name MAIR2_EL2 (42_mair2_el2_access.md R120, R121) -/

/-- Both rules reach the same place in the same two cases (R120 clauses (3d), (4)). -/
theorem verdict_eq_reach_mair2El2 {i : Instr} {s : State} (hn : i.name = .mair2El2) (hpres : Present s)
    (hreach : Mair2El2Reaches s) : verdict i s = .reach .mair2El2 := by
  simpa only [verdict, hn] using (checkMair2El2_reach_iff s _).mpr ⟨hpres, hreach, rfl⟩

theorem readPlace_mair2El2 (s : State) :
    readPlace .mair2El2 s = if Res0Access s ∧ s.cfg.res0Mode = .razWi then 0#64 else s.mair2El2 :=
  if_congr mair2El2RazWi_iff rfl rfl

/-- At EL2 the register is not RES0, so a read returns what it holds. -/
theorem readPlace_mair2El2_of_hostAtEl2 {s : State} (h : HostAtEl2 s) : readPlace .mair2El2 s = s.mair2El2 := by
  obtain ⟨hel, -⟩ := h
  simp [readPlace_mair2El2, hel]

/-- A write in program order to `MAIR2_EL2` leaves its value there, or what stood there where it is ignored (R24). -/
theorem placeBecomes_writeState_mair2El2 (n : AccessorName) (t : XReg) (d : Nat) (s : State) :
    PlaceBecomes .mair2El2 (if Res0Access s ∧ s.cfg.res0Mode = .razWi then s.mair2El2 else readX t s) s
      (writeState n .mair2El2 t 0 d s) := by
  split
  case isTrue hr =>
    have hraz : ∀ v, mair2El2RazWi (recordAccess n .write .mair2El2 0 v s) = true := fun v =>
      (mair2El2RazWi_congr (recordAccess_cfg ..) (recordAccess_ctx ..)).trans (mair2El2RazWi_iff.mpr hr)
    simp [PlaceBecomes, writeState, writePlace, hraz]
  case isFalse hr =>
    exact placeBecomes_writeState n _ t d s fun _ => Bool.eq_false_iff.mpr (mt mair2El2RazWi_iff.mp hr)

theorem writeDone_writeState_mair2El2 (n : AccessorName) (t : XReg) (d : Nat) (s : State) :
    WriteDone .mair2El2 (if Res0Access s ∧ s.cfg.res0Mode = .razWi then s.mair2El2 else readX t s) s
      (writeState n .mair2El2 t 0 d s) :=
  ⟨placeBecomes_writeState_mair2El2 n t d s, sameRegs_writeState n _ t 0 d s, rfl, sameSurroundings_writeState ..⟩

/-- The name MAIR2_EL2 is recorded at EL2 only, so there alone the records tell the value of its access (R176). -/
theorem RecordsExtended.congr_value_mair2El2 {k : AccessKind} {v w : Word} {s s' : State}
    (hr : RecordsExtended .mair2El2 k v s s') (hvw : HostAtEl2 s → v = w) : RecordsExtended .mair2El2 k w s s' := by
  obtain ⟨h2, -, helse⟩ := hr
  exact ⟨fun hp => hvw hp.1 ▸ h2 hp, fun hp => absurd rfl hp.2, helse⟩

/-- Settles O18: clauses (0) to (3c) are the chain's exceptions; otherwise it completes. Where the register reads as
zero, at EL3, nothing is recorded. -/
theorem mrsMair2El2RaisesOrCompletes : Obligations.MrsMair2El2RaisesOrCompletes := by
  intro t s ht
  obtain ⟨hdec, hundef, htrap2, htrap3⟩ := decodes_and_raises (i := .mrsMair2El2 t) ht s
  refine ⟨hdec, hundef, htrap2, htrap3, fun hpres hpc hreach hno => ?_⟩
  have hv : verdict (.mrsMair2El2 t) s = .reach .mair2El2 := verdict_eq_reach_mair2El2 rfl hpres hreach
  have hdone := readDone_readState .mair2El2 .mair2El2 ht s.raceDraws s
  have hrec := (afterAccess_accessState (.mrsMair2El2 t) _ 0 s.raceDraws s).recordsExtended hv rfl
  exact ⟨_, exec_completes_inOrder hv hpc hno, readPlace_mair2El2 s ▸ hdone,
    hrec.congr_value_mair2El2 readPlace_mair2El2_of_hostAtEl2⟩

/-- Settles O19: as for the read; where the register is RES0 under RazWi the write is ignored. -/
theorem msrMair2El2RaisesOrCompletes : Obligations.MsrMair2El2RaisesOrCompletes := by
  intro t s ht
  obtain ⟨hdec, hundef, htrap2, htrap3⟩ := decodes_and_raises (i := .msrMair2El2 t) ht s
  refine ⟨hdec, hundef, htrap2, htrap3, fun hpres hpc hreach hno => ?_⟩
  have hv : verdict (.msrMair2El2 t) s = .reach .mair2El2 := verdict_eq_reach_mair2El2 rfl hpres hreach
  exact ⟨_, exec_completes_inOrder hv hpc hno, writeDone_writeState_mair2El2 .mair2El2 t _ s,
    (afterAccess_accessState (.msrMair2El2 t) _ 0 s.raceDraws s).recordsExtended hv rfl⟩

end Sys2Proof.Machine
end

section
/-! The family of instructions that move data to or from memory, which the accessors enter in four cases only
(49_families_not_in_sources.md R134). -/

namespace Sys2Proof.Machine

/-- Settles O31: outside R134's four cases the tests of no name end in the memory cell, and a place an instruction does
not reach it neither reads nor writes. -/
theorem memoryCellIsReachedInFourCasesOnly : Obligations.MemoryCellIsReachedInFourCasesOnly := by
  intro i s v hnot
  have hunreached : verdict i s ≠ .reach .nvmem280 := mt nvmemCase_of_reach hnot
  exact exec_setHeld hunreached v

end Sys2Proof.Machine
end

section
/-! A step with another value in a place no instruction reaches: the environment's `ContextSync` and the fetch do not
look at the place, so the step answers the same (60_exceptions.md R150). -/

namespace Sys2Proof.Machine

/-! ### Before the instruction, with another value in a place -/

@[simp] theorem setHeld_syncPlaces (q : Place) (v : Word) (s : State) :
    (setHeld q v s).syncPlaces = s.syncPlaces := by
  cases q <;> rfl

/-- A `ContextSync` (R71) leaves every place as it is. -/
theorem environmentStep_setHeld (q : Place) (v : Word) (s : State) :
    environmentStep (setHeld q v s) = (environmentStep s).map (setHeld q v) := by
  unfold environmentStep
  rw [setHeld_syncPlaces, setHeld_pc]
  split
  · cases q <;> rfl
  · rfl

/-- The fetch looks at `pc` and instruction memory only (R61, R181). -/
theorem fetch_setHeld (q : Place) (v : Word) (s : State) : fetch (setHeld q v s) = fetch s := by
  cases q <;> rfl

/-! ### The whole step -/

/-- A step at which the tests of no instruction end in the place neither reads nor writes it. -/
theorem step_setHeld {q : Place} {s : State} (hq : ∀ i, verdict i s ≠ .reach q) (v : Word) :
    step (setHeld q v s) = mapNext (setHeld q v) (step s) := by
  unfold step
  rw [environmentStep_setHeld, fetch_setHeld]
  cases environmentStep s with
  | some s' => rfl
  | none => cases fetch s with
    | error r => rfl
    | ok i => exact exec_setHeld (hq i) v

/-- R150: each name that reaches `MAIR2_EL2` does so from EL2 or EL3. -/
theorem el_of_reach_mair2El2 {i : Instr} {s : State} (hv : verdict i s = .reach .mair2El2) :
    s.ctx.el = .el2 ∨ s.ctx.el = .el3 := by
  rcases reach_mair2El2 hv with ⟨-, hel2, -⟩ | ⟨-, hel⟩
  · exact .inl hel2
  · exact hel

/-- Settles O32: below EL2 the tests of no instruction end in `MAIR2_EL2`, so whatever it holds the step is the same. -/
theorem lowerLevelsNeverReachMair2El2 : Obligations.LowerLevelsNeverReachMair2El2 := by
  intro s v hlow
  refine step_setHeld (q := .mair2El2) (fun i hv => ?_) v
  have hhigh : s.ctx.el = .el2 ∨ s.ctx.el = .el3 := el_of_reach_mair2El2 hv
  rcases hlow with hel | hel
  · simp [hel] at hhigh
  · simp [hel] at hhigh

end Sys2Proof.Machine
end

section
/-! The cross-name hazard of R176 for both pairs at once: the places the race offers, and the refusal. -/

namespace Sys2Proof.Machine

/-! ### The places the race offers (R70, R176) -/

theorem le_overtakable_iff {n : AccessorName} {l : List Effect} {j : Nat} :
    j ≤ overtakable n l ↔ j ≤ l.length ∧ ∀ e ∈ l.take j, e.source ≠ none ∧ e.source ≠ some n := by
  refine ⟨split_of_le_overtakable, ?_⟩
  rintro ⟨hlen, hnewer⟩
  induction l generalizing j with
  | nil => simpa [overtakable] using hlen
  | cons e l ih =>
    cases j with
    | zero => exact Nat.zero_le _
    | succ j =>
      rw [List.take_succ_cons, List.forall_mem_cons] at hnewer
      obtain ⟨⟨hsync, hother⟩, hrest⟩ := hnewer
      have hstep : overtakable n (e :: l) = overtakable n l + 1 := if_neg (not_or.mpr ⟨hsync, hother⟩)
      rw [hstep]
      exact Nat.succ_le_succ (ih (Nat.le_of_succ_le_succ hlen) hrest)

theorem mem_readPositions_iff {n : AccessorName} {l : List Effect} {j : Nat} :
    j ∈ readPositions n l ↔ j ≤ l.length ∧ ∀ e ∈ l.take j, e.source ≠ none ∧ e.source ≠ some n := by
  rw [← le_overtakable_iff, readPositions, List.mem_range, Nat.lt_succ_iff]

/-- The effect a write at position `j` comes right before is the last of the `j` latest. -/
theorem nextIsWrite_iff {l : List Effect} {j : Nat} (hj : j ≤ l.length) :
    nextIsWrite l j = true ↔ ∀ e, (l.take j).getLast? = some e → e.kind = .write := by
  cases j with
  | zero => simp [nextIsWrite]
  | succ j =>
    have hget : l[j]? = some l[j] := List.getElem?_eq_getElem hj
    have hlast : (l.take (j + 1)).getLast? = some l[j] := by simp [List.getLast?_take, hget]
    simp [nextIsWrite, hget, hlast]

theorem mem_writePositions_iff {n : AccessorName} {l : List Effect} {j : Nat} :
    j ∈ writePositions n l ↔ j ≤ l.length ∧ (∀ e ∈ l.take j, e.source ≠ none ∧ e.source ≠ some n) ∧
      ∀ e, (l.take j).getLast? = some e → e.kind = .write := by
  rw [writePositions, List.mem_filter, mem_readPositions_iff, and_assoc]
  exact and_congr_right fun hj => and_congr_right fun _ => nextIsWrite_iff hj

/-- Settles O30: `overtakable` counts the latest effects up to the first of the own name or of the synchronisation. -/
theorem raceOffersEveryAllowedPosition : Obligations.RaceOffersEveryAllowedPosition := fun _ _ _ =>
  ⟨mem_readPositions_iff, mem_writePositions_iff⟩

/-! ### An access to the register of a pair whose hazard is possible -/

/-- At EL2 the tests of the pair's names let an access through unless AIEn is off (R100, R101, R120, R121 clauses (3a)
to (3d)); at EL3 they always do (R100, R101 clause (4); R110, R111 clause (4a)). -/
theorem verdict_eq_reach_of_possible {h : HazardPair} {i : Instr} {s : State} (hpres : Present s) (hp : h.Possible s)
    (hn : i.name ∈ h.names) (haie : h = .el2 → ¬ AieOff s) : verdict i s = .reach h.place := by
  have hplace : h.place = namePlace i.name s := (namePlace_of_possible hp hn).symm
  cases hname : i.name with
  | mair2El1 =>
    have hel : s.ctx.el = .el2 ∧ ¬ AieOff s ∨ s.ctx.el = .el3 := by
      cases h with
      | el2 => obtain ⟨hel, -⟩ : HostAtEl2 s := hp; exact .inl ⟨hel, haie rfl⟩
      | el1 => obtain ⟨hel, -⟩ : HostAtEl3 s := hp; exact .inr hel
    rw [hplace]
    simp only [verdict, hname, checkMair2El1_reach_iff]
    rcases hel with ⟨hel, haie⟩ | hel
    · exact ⟨hpres, by simp [hel], by simp [hel], fun _ => haie, rfl⟩
    · exact ⟨hpres, by simp [hel], by simp [hel], by simp [hel], rfl⟩
  | mair2El12 =>
    cases h with
    | el2 => exact absurd hname (mem_names_el2_iff.mp hn)
    | el1 =>
      rw [hplace]
      simp only [verdict, hname, checkMair2El12_reach_iff]
      exact ⟨hpres, .inr (.inr hp), rfl⟩
  | mair2El2 =>
    cases h with
    | el1 => exact absurd hname (mem_names_el1_iff.mp hn)
    | el2 =>
      obtain ⟨hel, -⟩ : HostAtEl2 s := hp
      exact verdict_eq_reach_mair2El2 hname hpres (.inl ⟨hel, haie rfl⟩)

/-- The test of R176 looks at the record of the pair. -/
theorem crossNameHazard_of_possible {h : HazardPair} {s : State} (hp : h.Possible s) (n : AccessorName)
    (k : AccessKind) : crossNameHazard n k h.place s = conflicts (unsyncOf h s).accesses n k := by
  simp only [crossNameHazard, hazardPair_eq_some_iff.mpr ⟨hp, rfl⟩]

/-! ### The refusal (R176, decision D11) -/

/-- Under the spec's own treatment an access that reaches its place and meets the hazard is refused. -/
theorem exec_refused_of_hazard {i : Instr} {s : State} {p : Place} (hv : verdict i s = .reach p)
    (hmode : s.cfg.crossName = .refuse) (hz : crossNameHazard i.name i.kind p s = true) :
    exec i s = .refused .unsynchronisedCrossNameAccess := by
  have hnone : ∀ ps, arbitrate (crossNameHazard i.name i.kind p s) ps s = none := fun _ =>
    arbitrate_none_iff.mpr ⟨hz, hmode⟩
  rw [exec_eq_perform, hv]
  cases hk : i.kind <;> rw [hk] at hnone
  case read => simp only [perform, performRead, transferRead, hnone]
  case write => simp only [perform, performWrite, transferWrite, hnone]

/-- One pair is possible at EL2 only, the other at EL3 only. -/
theorem HazardPair.Possible.unique {g h : HazardPair} {s : State} (hg : g.Possible s) (hh : h.Possible s) : g = h := by
  have hel : ¬ (HostAtEl2 s ∧ HostAtEl3 s) := by
    rintro ⟨⟨h2, -⟩, h3, -⟩; simp [h2] at h3
  cases g with
  | el2 => cases h with
    | el2 => rfl
    | el1 => exact absurd ⟨hg, hh⟩ hel
  | el1 => cases h with
    | el2 => exact absurd ⟨hh, hg⟩ hel
    | el1 => rfl

/-- An access that reaches the register of a pair leaves the record of the other as it was. -/
theorem AfterAccess.unsyncOf_other {i : Instr} {j : Nat} {v : Word} {h g : HazardPair} {s s' : State}
    (ha : AfterAccess i.name i.kind h.place j v s s') (hv : verdict i s = .reach h.place) (hp : h.Possible s)
    (hne : g ≠ h) : unsyncOf g s' = unsyncOf g s :=
  ha.unsyncOf_eq hv fun ⟨hg, _⟩ => hne (hg.unique hp)

/-- R176 for either pair, under the spec's own treatment. -/
theorem exec_refuse_crossName {h : HazardPair} {i : Instr} {s : State} (hmode : s.cfg.crossName = .refuse)
    (hpc : PcHasRoom s) (hp : h.Possible s) (hn : i.name ∈ h.names) (hv : verdict i s = .reach h.place) :
    (CrossNameConflict (unsyncOf h s).accesses i.name i.kind → exec i s = .refused .unsynchronisedCrossNameAccess) ∧
    (¬ CrossNameConflict (unsyncOf h s).accesses i.name i.kind →
      ∃ s', exec i s = .next s' ∧ (unsyncOf h s').accesses = (unsyncOf h s).accesses ++ [(i.name, i.kind)] ∧
        ∀ g, g ≠ h → unsyncOf g s' = unsyncOf g s) := by
  have hz := crossNameHazard_of_possible hp i.name i.kind
  refine ⟨fun hc => exec_refused_of_hazard hv hmode (hz.trans (conflicts_iff.mpr hc)), fun hc => ?_⟩
  have hno : NoHazard i.name i.kind s :=
    (crossNameHazard_eq_false_iff_noHazard hv).mp (hz.trans (conflicts_eq_false_iff.mpr hc))
  have ha := afterAccess_accessState i h.place 0 s.raceDraws s
  obtain ⟨hacc, -⟩ := ha.extendedInOrder hv hp hn
  exact ⟨_, exec_completes_inOrder hv hpc hno, hacc, fun g hg => ha.unsyncOf_other hv hp hg⟩

/-- Settles O26: the pair of the names MAIR2_EL1 and MAIR2_EL2. -/
theorem crossNameAccessIsRefusedAtEl2 : Obligations.CrossNameAccessIsRefusedAtEl2 := by
  intro i s hmode hpres hpc haie hp hname
  have hn : i.name ∈ HazardPair.el2.names := mem_names_el2_iff.mpr hname
  have hv := verdict_eq_reach_of_possible (h := .el2) hpres hp hn fun _ => haie
  obtain ⟨hrefused, hcompletes⟩ := exec_refuse_crossName (h := .el2) hmode hpc hp hn hv
  refine ⟨hrefused, fun hc => ?_⟩
  obtain ⟨s', hs, hacc, hother⟩ := hcompletes hc
  exact ⟨s', hs, hacc, hother .el1 nofun⟩

/-- Settles O27: the pair of the names MAIR2_EL1 and MAIR2_EL12. -/
theorem crossNameAccessIsRefusedAtEl3 : Obligations.CrossNameAccessIsRefusedAtEl3 := by
  intro i s hmode hpres hpc hp hname
  have hn : i.name ∈ HazardPair.el1.names := mem_names_el1_iff.mpr hname
  have hv := verdict_eq_reach_of_possible (h := .el1) hpres hp hn nofun
  obtain ⟨hrefused, hcompletes⟩ := exec_refuse_crossName (h := .el1) hmode hpc hp hn hv
  refine ⟨hrefused, fun hc => ?_⟩
  obtain ⟨s', hs, hacc, hother⟩ := hcompletes hc
  exact ⟨s', hs, hacc, hother .el2 nofun⟩

end Sys2Proof.Machine
end

section
/-! The race of R176 for both pairs at once: a conflicting access completes at one of the places offered, and what it
returns or leaves there. -/

namespace Sys2Proof.Machine

/-! ### Values in an order of effects (R176) -/

theorem EffectsLinked.ne_nil {l : List Effect} (h : EffectsLinked l) : l ≠ [] := by
  rintro rfl; exact h

/-- The latest value of a stretch of the order that begins with a write, or reaches back to the synchronisation, is the
value of one of its writes: each read has returned the value just before it. -/
theorem EffectsLinked.exists_write {newer older : List Effect} (h : EffectsLinked (newer ++ older))
    (hlast : ∀ e, newer.getLast? = some e → e.kind = .write) {f : Effect} (hf : newer.head? = some f) :
    ∃ e ∈ newer, e.kind = .write ∧ e.value = f.value := by
  induction newer generalizing f with
  | nil => cases hf
  | cons e l ih =>
    obtain rfl : e = f := Option.some.inj hf
    cases l with
    | nil => exact ⟨e, List.mem_singleton_self e, hlast e rfl, rfl⟩
    | cons g l =>
      obtain ⟨-, hread, hrest⟩ := effectsLinked_cons_cons_iff.mp h
      cases hk : e.kind with
      | write => exact ⟨e, List.mem_cons_self, hk, rfl⟩
      | read =>
        obtain ⟨w, hw, hkind, hval⟩ := ih hrest (fun x hx => hlast x (by rwa [List.getLast?_cons_cons])) rfl
        exact ⟨w, List.mem_cons_of_mem _ hw, hkind, hval.trans (hread hk).symm⟩

theorem EffectsLinked.getLast_write {l : List Effect} (h : EffectsLinked l) {e : Effect}
    (he : l.getLast? = some e) : e.kind = .write := by
  induction l with
  | nil => cases he
  | cons f l ih =>
    cases l with
    | nil =>
      obtain ⟨-, hkind⟩ := h
      obtain rfl : f = e := Option.some.inj he
      exact hkind
    | cons g l =>
      obtain ⟨-, -, hrest⟩ := effectsLinked_cons_cons_iff.mp h
      exact ih hrest (by rwa [List.getLast?_cons_cons] at he)

theorem EffectsLinked.drop {l : List Effect} (h : EffectsLinked l) {j : Nat} (hj : j < l.length) :
    EffectsLinked (l.drop j) := by
  induction j generalizing l with
  | zero => exact h
  | succ j ih =>
    match l, h with
    | [f], _ => simp at hj
    | f :: g :: l, h =>
      obtain ⟨-, -, hrest⟩ := effectsLinked_cons_cons_iff.mp h
      exact ih hrest (Nat.lt_of_succ_lt_succ hj)

/-- Every value in a linked order is the value of a write at or before it. -/
theorem EffectsLinked.exists_write_value {l : List Effect} (h : EffectsLinked l) {j : Nat} {f : Effect}
    (hf : l[j]? = some f) : ∃ e ∈ l, e.kind = .write ∧ e.value = f.value := by
  obtain ⟨hj, -⟩ := List.getElem?_eq_some_iff.mp hf
  have hdrop := h.drop hj
  have hhead : (l.drop j).head? = some f := by rw [List.head?_drop, hf]
  obtain ⟨e, he, hw⟩ := EffectsLinked.exists_write (older := []) (by rwa [List.append_nil])
    (fun _ he => hdrop.getLast_write he) hhead
  exact ⟨e, List.mem_of_mem_drop he, hw⟩

/-! ### Where a raced access takes effect -/

/-- Where something is recorded, the record's effects are in order. -/
theorem PairInv.recorded_inOrder {h : HazardPair} {s : State} (hinv : PairInv h s)
    (hne : (unsyncOf h s).accesses ≠ []) :
    InOrder (unsyncOf h s).accesses (unsyncOf h s).effects (h.held s) := by
  obtain ⟨-, -, -, horder, -⟩ := hinv
  obtain ⟨hlinked, hlatest, hkinds⟩ := horder hne
  exact ⟨hlinked, hlatest, hkinds⟩

/-- Where something is recorded, the order an access finds is the record's. -/
theorem PairInv.placeEffects_eq {h : HazardPair} {s : State} (hinv : PairInv h s) (hp : h.Possible s)
    (hne : (unsyncOf h s).accesses ≠ []) : placeEffects h.place s = (unsyncOf h s).effects := by
  have heffects := (hinv.recorded_inOrder hne).linked.ne_nil
  rw [placeEffects_of_possible hp, effectOrder_eq_effectsFound, effectsFound, if_neg heffects]

/-- An access at one of the positions offered takes effect between the effects it overtakes and the rest. -/
theorem AfterAccess.takesEffectBetween {n : AccessorName} {k : AccessKind} {j : Nat} {v : Word} {h : HazardPair}
    {s s' : State} (ha : AfterAccess n k h.place j v s s') (hinv : PairInv h s) (hp : h.Possible s)
    (hne : (unsyncOf h s).accesses ≠ []) (hj : j ∈ readPositions n (unsyncOf h s).effects) :
    TakesEffectBetween n k v ((unsyncOf h s).effects.take j) ((unsyncOf h s).effects.drop j)
      (unsyncOf h s) (unsyncOf h s') := by
  obtain ⟨hlt, hnewer⟩ := (hinv.recorded_inOrder hne).position hj
  rw [ha.record, unsyncOf_recordAccess, if_pos (hazardPair_eq_some_iff.mpr ⟨hp, rfl⟩), hinv.placeEffects_eq hp hne]
  refine ⟨(List.take_append_drop ..).symm, ?_, hnewer, rfl, rfl⟩
  rw [ne_eq, List.drop_eq_nil_iff]
  exact Nat.not_le_of_lt hlt

/-- A raced read returns the value of its position, which a write left there. -/
theorem AfterAccess.racedRead {n : AccessorName} {j : Nat} {h : HazardPair} {s s' : State}
    (ha : AfterAccess n .read h.place j (valueAt (placeEffects h.place s) (readPlace h.place s) j) s s')
    (hinv : PairInv h s) (hp : h.Possible s) (hne : (unsyncOf h s).accesses ≠ [])
    (hj : j ∈ readPositions n (placeEffects h.place s)) :
    RacedRead n (valueAt (placeEffects h.place s) (readPlace h.place s) j) (unsyncOf h s) (unsyncOf h s') := by
  rw [hinv.placeEffects_eq hp hne, readPlace_of_possible hp] at ha ⊢
  rw [hinv.placeEffects_eq hp hne] at hj
  have horder := hinv.recorded_inOrder hne
  have hget := List.getElem?_eq_getElem (horder.position hj).1
  have hval := horder.valueAt_eq hget
  refine ⟨⟨_, _, ha.takesEffectBetween hinv hp hne hj, ?_⟩, ?_⟩
  · rw [List.head?_drop, hget, hval]; rfl
  · rw [hval]; exact horder.linked.exists_write_value hget

/-- A raced write leaves its own value, or takes effect before a write of the other name whose value stays. -/
theorem AfterAccess.racedWrite {n : AccessorName} {j : Nat} {v : Word} {h : HazardPair} {s s' : State}
    (ha : AfterAccess n .write h.place j v s s') (hinv : PairInv h s) (hp : h.Possible s)
    (hne : (unsyncOf h s).accesses ≠ []) (hj : j ∈ writePositions n (placeEffects h.place s)) :
    RacedWrite n v (h.held s) (h.held s') (unsyncOf h s) (unsyncOf h s') := by
  rw [hinv.placeEffects_eq hp hne] at hj
  have horder := hinv.recorded_inOrder hne
  obtain ⟨-, hnewer, hlast⟩ := mem_writePositions_iff.mp hj
  have hbetween := ha.takesEffectBetween hinv hp hne (List.mem_filter.mp hj).1
  have heffects := horder.linked.ne_nil
  have hfinal := ha.reached h hp rfl
  refine ⟨⟨_, _, hbetween, hlast, ?_⟩, ?_⟩
  · simpa [List.take_eq_nil_iff, heffects] using hfinal
  · cases j with
    | zero => exact .inl hfinal
    | succ j =>
      obtain ⟨f, hf, hcurrent⟩ := Option.map_eq_some_iff.mp horder.latest
      have hhead : ((unsyncOf h s).effects.take (j + 1)).head? = some f := by
        rw [List.head?_take, if_neg (Nat.succ_ne_zero j), hf]
      obtain ⟨e, he, hkind, hval⟩ := EffectsLinked.exists_write
        (by rw [List.take_append_drop]; exact horder.linked) hlast hhead
      obtain ⟨hsync, hother⟩ := hnewer e he
      exact .inr ⟨e, List.mem_of_mem_take he, hkind, hsync, hother, hval.trans (hcurrent.trans hfinal.symm)⟩

/-! ### A raced access completes -/

/-- A write that is let through, with room for the next `pc`, completes. -/
theorem transferWrite_completes {n : AccessorName} {p : Place} {t : XReg} {s : State}
    (hne : arbitrate (crossNameHazard n .write p s) (writePositions n (placeEffects p s)) s ≠ none)
    (hpc : PcHasRoom s) : ∃ s', transferWrite n p t s = .next s' := by
  obtain ⟨⟨j, s1⟩, ha⟩ := Option.ne_none_iff_exists'.mp hne
  obtain ⟨-, -, d, rfl⟩ := arbitrate_some_state (zero_mem_writePositions n _) ha
  exact ⟨_, by rw [transferWrite, ha]; exact complete_next_iff.mpr ⟨by simpa using hpc, rfl⟩⟩

/-- Under the race the hazard stops no access: one that reaches its place and has room for the next `pc` completes. -/
theorem exec_completes_of_race {i : Instr} {s : State} {p : Place} (hv : verdict i s = .reach p) (hpc : PcHasRoom s)
    (hmode : s.cfg.crossName = .race) : ∃ s', exec i s = .next s' := by
  have harb : ∀ hz ps, arbitrate hz ps s ≠ none := fun hz ps hnone => by
    obtain ⟨-, hrefuse⟩ := arbitrate_none_iff.mp hnone
    simp [hmode] at hrefuse
  cases hk : i.kind with
  | read =>
    obtain ⟨s', ht⟩ := transferRead_completes_iff.mpr ⟨harb _ _, hpc⟩
    exact ⟨s', (exec_read_next_iff hk).mpr ⟨p, hv, ht⟩⟩
  | write =>
    obtain ⟨s', ht⟩ := transferWrite_completes (harb _ _) hpc
    exact ⟨s', (exec_write_next_iff hk).mpr ⟨p, hv, ht⟩⟩

theorem ne_nil_of_crossNameConflict {l : List (AccessorName × AccessKind)} {n : AccessorName} {k : AccessKind}
    (hc : CrossNameConflict l n k) : l ≠ [] := by
  obtain ⟨e, he, -⟩ := hc
  exact List.ne_nil_of_mem he

/-- An access that meets the hazard takes one of the positions offered, by one free choice. -/
theorem exec_races_of_conflict {h : HazardPair} {i : Instr} {s : State} (hmode : s.cfg.crossName = .race)
    (hpc : PcHasRoom s) (hp : h.Possible s) (hv : verdict i s = .reach h.place)
    (hc : CrossNameConflict (unsyncOf h s).accesses i.name i.kind) :
    ∃ j ∈ accessPositions i h.place s, exec i s = .next (accessState i h.place j (s.raceDraws + 1) s) := by
  have hz : crossNameHazard i.name i.kind h.place s = true :=
    (crossNameHazard_of_possible hp ..).trans (conflicts_iff.mpr hc)
  obtain ⟨s', hs⟩ := exec_completes_of_race hv hpc hmode
  obtain ⟨p, j, d, hv', rfl, hj, harb⟩ := exec_next_access hs
  obtain rfl : h.place = p := Verdict.reach.inj (hv.symm.trans hv')
  rcases harb with ⟨hnone, -⟩ | ⟨-, -, rfl⟩
  · simp [hz] at hnone
  · exact ⟨j, hj, hs⟩

/-- A write, wherever it takes effect on the register of a pair, leaves the other places. -/
theorem placeBecomes_writeState_held {h : HazardPair} {s : State} (hp : h.Possible s) (n : AccessorName) (t : XReg)
    (j d : Nat) : PlaceBecomes h.place (h.held (writeState n h.place t j d s)) s (writeState n h.place t j d s) := by
  have hother : ∀ g : HazardPair, h.place ≠ g.place → g.held (writeState n h.place t j d s) = g.held s :=
    (afterAccess_writeState n h.place t j d s).other
  have hcell := nvmem280_writeState_other n t j d s (p := h.place)
  cases h with
  | el2 => exact ⟨rfl, hother .el1 nofun, hcell nofun⟩
  | el1 => exact ⟨rfl, hother .el2 nofun, hcell nofun⟩

/-- R176's race for either pair, a read. -/
theorem exec_raced_read {h : HazardPair} {i : Instr} {s : State} (hmode : s.cfg.crossName = .race)
    (hpc : PcHasRoom s) (hinv : PairInv h s) (hk : i.kind = .read) (hwf : i.WellFormed) (hp : h.Possible s)
    (hv : verdict i s = .reach h.place) (hc : CrossNameConflict (unsyncOf h s).accesses i.name .read) :
    ∃ s' v, exec i s = .next s' ∧ ReadDone i.operand v s s' ∧ RacedRead i.name v (unsyncOf h s) (unsyncOf h s') ∧
      (∀ g, g ≠ h → unsyncOf g s' = unsyncOf g s) ∧ s'.raceDraws = s.raceDraws + 1 := by
  have hne := ne_nil_of_crossNameConflict hc
  obtain ⟨j, hj, hs⟩ := exec_races_of_conflict hmode hpc hp hv (by rwa [hk])
  have ha := afterAccess_accessState i h.place j (s.raceDraws + 1) s
  have hother : ∀ g, g ≠ h → unsyncOf g _ = unsyncOf g s := fun g hg => ha.unsyncOf_other hv hp hg
  simp only [accessPositions, accessValue, accessState, hk] at hj ha hs hother
  exact ⟨_, _, hs, ⟨readX_readState_same _ _ _ _ _ hwf, fun _ hr => readX_readState_other _ _ _ _ _ hr, rfl,
    samePlaces_readState .., sameSurroundings_readState ..⟩, ha.racedRead hinv hp hne hj, hother, rfl⟩

/-- R176's race for either pair, a write. -/
theorem exec_raced_write {h : HazardPair} {i : Instr} {s : State} (hmode : s.cfg.crossName = .race)
    (hpc : PcHasRoom s) (hinv : PairInv h s) (hk : i.kind = .write) (hp : h.Possible s)
    (hv : verdict i s = .reach h.place) (hc : CrossNameConflict (unsyncOf h s).accesses i.name .write) :
    ∃ s' v, exec i s = .next s' ∧ WriteDone h.place v s s' ∧
      RacedWrite i.name (readX i.operand s) (h.held s) v (unsyncOf h s) (unsyncOf h s') ∧
      (∀ g, g ≠ h → unsyncOf g s' = unsyncOf g s) ∧ s'.raceDraws = s.raceDraws + 1 := by
  have hne := ne_nil_of_crossNameConflict hc
  obtain ⟨j, hj, hs⟩ := exec_races_of_conflict hmode hpc hp hv (by rwa [hk])
  have ha := afterAccess_accessState i h.place j (s.raceDraws + 1) s
  have hother : ∀ g, g ≠ h → unsyncOf g _ = unsyncOf g s := fun g hg => ha.unsyncOf_other hv hp hg
  simp only [accessPositions, accessValue, accessState, hk] at hj ha hs hother
  exact ⟨_, _, hs,
    ⟨placeBecomes_writeState_held hp .., sameRegs_writeState _ _ _ _ _ _, rfl, sameSurroundings_writeState ..⟩, ha.racedWrite hinv hp hne hj, hother, rfl⟩

/-- Settles O28: the pair at EL2, then the pair at EL3. -/
theorem racingReadReturnsARacingValue : Obligations.RacingReadReturnsARacingValue := by
  intro i s hmode hpres hpc hinv hk hwf
  obtain ⟨-, -, hpairs⟩ := inv_iff.mp hinv
  refine ⟨fun haie hp hname hc => ?_, fun hp hname hc => ?_⟩
  · have hv := verdict_eq_reach_of_possible (h := .el2) hpres hp (mem_names_el2_iff.mpr hname) fun _ => haie
    obtain ⟨s', v, hs, hdone, hraced, hother, hdraws⟩ :=
      exec_raced_read hmode hpc (hpairs .el2) hk hwf hp hv hc
    exact ⟨s', v, hs, hdone, hraced, hother .el1 nofun, hdraws⟩
  · have hv := verdict_eq_reach_of_possible (h := .el1) hpres hp (mem_names_el1_iff.mpr hname) nofun
    obtain ⟨s', v, hs, hdone, hraced, hother, hdraws⟩ :=
      exec_raced_read hmode hpc (hpairs .el1) hk hwf hp hv hc
    exact ⟨s', v, hs, hdone, hraced, hother .el2 nofun, hdraws⟩

/-- Settles O29: the pair at EL2, then the pair at EL3. -/
theorem racingWriteLeavesARacingValue : Obligations.RacingWriteLeavesARacingValue := by
  intro i s hmode hpres hpc hinv hk
  obtain ⟨-, -, hpairs⟩ := inv_iff.mp hinv
  refine ⟨fun haie hp hname hc => ?_, fun hp hname hc => ?_⟩
  · have hv := verdict_eq_reach_of_possible (h := .el2) hpres hp (mem_names_el2_iff.mpr hname) fun _ => haie
    obtain ⟨s', v, hs, hdone, hraced, hother, hdraws⟩ := exec_raced_write hmode hpc (hpairs .el2) hk hp hv hc
    exact ⟨s', v, hs, hdone, hraced, hother .el1 nofun, hdraws⟩
  · have hv := verdict_eq_reach_of_possible (h := .el1) hpres hp (mem_names_el1_iff.mpr hname) nofun
    obtain ⟨s', v, hs, hdone, hraced, hother, hdraws⟩ := exec_raced_write hmode hpc (hpairs .el1) hk hp hv hc
    exact ⟨s', v, hs, hdone, hraced, hother .el2 nofun, hdraws⟩

end Sys2Proof.Machine
end

section
/-! Programs and their runs: where the launch places the words, and how far a run gets (70_reset_and_hazards.md R180,
R181). -/

namespace Sys2Proof.Machine

/-! ### Bytes written one after the other (R61, R72) -/

theorem Memory.read_writeBytes_outside {m : Memory} {a : Word} {bs : List Byte} {x : Nat}
    (hfits : a.toNat + bs.length ≤ 2 ^ 64) (hx : x < a.toNat ∨ a.toNat + bs.length ≤ x) :
    Memory.read (Memory.writeBytes m a bs) x = Memory.read m x := by
  induction bs generalizing m a with
  | nil => rfl
  | cons b bs ih =>
    rw [List.length_cons] at hfits hx
    have hnext : (a + 1#64).toNat = (a.toNat + 1) % 2 ^ 64 := by simp [BitVec.toNat_add]
    calc Memory.read (Memory.writeBytes (Memory.write m a b) (a + 1#64) bs) x
      _ = Memory.read (Memory.write m a b) x := ih (by omega) (by omega)
      _ = Memory.read m x := Memory.read_insert_other m b (by omega)

theorem Memory.read_writeBytes_inside {m : Memory} {a : Word} {bs : List Byte} {j : Nat}
    (hfits : a.toNat + bs.length ≤ 2 ^ 64) (hj : j < bs.length) :
    Memory.read (Memory.writeBytes m a bs) (a.toNat + j) = bs[j]? := by
  induction bs generalizing m a j with
  | nil => simp at hj
  | cons b bs ih =>
    rw [List.length_cons] at hfits hj
    have hnext : (a + 1#64).toNat = (a.toNat + 1) % 2 ^ 64 := by simp [BitVec.toNat_add]
    cases j with
    | zero =>
      calc Memory.read (Memory.writeBytes (Memory.write m a b) (a + 1#64) bs) a.toNat
        _ = Memory.read (Memory.write m a b) a.toNat := read_writeBytes_outside (by omega) (by omega)
        _ = some b := read_write_same m a b
    | succ j =>
      have hj' : a.toNat + (j + 1) = (a + 1#64).toNat + j := by omega
      rw [hj', List.getElem?_cons_succ]
      exact ih (by omega) (by omega)

/-! ### The program's bytes (R61) -/

@[simp] theorem bytesOfWord_length (w : InsnWord) : (bytesOfWord w).length = 4 := rfl

@[simp] theorem programBytes_length (ws : List InsnWord) : (programBytes ws).length = 4 * ws.length := by
  induction ws with
  | nil => rfl
  | cons w ws ih => rw [programBytes, List.length_append, ih, bytesOfWord_length, List.length_cons]; omega

theorem programBytes_getElem? {ws : List InsnWord} {k : Nat} {w : InsnWord} (hw : ws[k]? = some w) {b : Nat}
    (hb : b < 4) : (programBytes ws)[4 * k + b]? = (bytesOfWord w)[b]? := by
  induction ws generalizing k with
  | nil => simp at hw
  | cons v ws ih =>
    rw [programBytes]
    cases k with
    | zero =>
      obtain rfl : v = w := Option.some.inj hw
      rw [Nat.mul_zero, Nat.zero_add, List.getElem?_append_left (by simpa using hb)]
    | succ k =>
      have hk : 4 * (k + 1) + b - (bytesOfWord v).length = 4 * k + b := by rw [bytesOfWord_length]; omega
      rw [List.getElem?_append_right (by rw [bytesOfWord_length]; omega), hk]
      exact ih (by simpa using hw)

/-- The four bytes of a word put together again are the word. -/
theorem wordOfBytes_bytesOfWord (w : InsnWord) :
    wordOfBytes (w.extractLsb' 0 8) (w.extractLsb' 8 8) (w.extractLsb' 16 8) (w.extractLsb' 24 8) = w := by
  rw [wordOfBytes, BitVec.extractLsb'_append_extractLsb'_eq_extractLsb' (by decide),
    BitVec.extractLsb'_append_extractLsb'_eq_extractLsb' (by decide),
    BitVec.extractLsb'_append_extractLsb'_eq_extractLsb' (by decide)]
  exact BitVec.extractLsb'_eq_self

/-! ### Fetching (R61, R62, R88) -/

/-- Where the four bytes of a word stand from `pc` on, the word is fetched. -/
theorem fetchWord_of_bytes {s : State} {w : InsnWord}
    (h : ∀ b < 4, Memory.read s.mem (s.pc.toNat + b) = (bytesOfWord w)[b]?) : fetchWord s = some w := by
  have h0 : Memory.read s.mem s.pc.toNat = some (w.extractLsb' 0 8) := h 0 (by decide)
  have h1 : Memory.read s.mem (s.pc.toNat + 1) = some (w.extractLsb' 8 8) := h 1 (by decide)
  have h2 : Memory.read s.mem (s.pc.toNat + 2) = some (w.extractLsb' 16 8) := h 2 (by decide)
  have h3 : Memory.read s.mem (s.pc.toNat + 3) = some (w.extractLsb' 24 8) := h 3 (by decide)
  simp only [fetchWord, h0, h1, h2, h3, wordOfBytes_bytesOfWord]

theorem fetch_of_fetchWord {s : State} {w : InsnWord} {i : Instr} (hpc : s.pc.toNat % 4 = 0)
    (hw : fetchWord s = some w) (hd : decode w = .ok i) : fetch s = .ok i := by
  simp only [fetch, hpc, hw, hd, ne_eq, not_true_eq_false, if_false]

/-- A fetch that answers an instruction found a byte at `pc`. -/
theorem read_pc_of_fetch {s : State} {i : Instr} (h : fetch s = .ok i) : Memory.read s.mem s.pc.toNat ≠ none := by
  intro hnone
  have hw : fetchWord s = none := by simp only [fetchWord, hnone]
  simp only [fetch, hw] at h
  split at h <;> cases h

/-- Where no `ContextSync` is scheduled, the step runs the instruction fetched. -/
theorem step_of_fetch {s : State} {i : Instr} (hsync : s.pc ∉ s.syncPlaces) (h : fetch s = .ok i) :
    step s = exec i s := by
  simp only [step, environmentStep_none hsync, h]

/-! ### The launch (R181) -/

section
variable {base : Word} {program : List InsnWord} {syncs : List Word} {s : State}

theorem launch_mem : (launch base program syncs s).mem = Memory.writeBytes [] base (programBytes program) := rfl

theorem launch_read_outside (hfits : base.toNat + 4 * program.length ≤ 2 ^ 64) {a : Nat}
    (ha : a < base.toNat ∨ base.toNat + 4 * program.length ≤ a) :
    Memory.read (launch base program syncs s).mem a = none := by
  rw [launch_mem, Memory.read_writeBytes_outside (by rwa [programBytes_length]) (by rwa [programBytes_length])]
  rfl

theorem launch_read_word (hfits : base.toNat + 4 * program.length ≤ 2 ^ 64) {k : Nat} {w : InsnWord}
    (hw : program[k]? = some w) {b : Nat} (hb : b < 4) :
    Memory.read (launch base program syncs s).mem (base.toNat + (4 * k + b)) = (bytesOfWord w)[b]? := by
  obtain ⟨hk, -⟩ := List.getElem?_eq_some_iff.mp hw
  rw [launch_mem, Memory.read_writeBytes_inside (by rwa [programBytes_length]) (by rw [programBytes_length]; omega)]
  exact programBytes_getElem? hw hb

end

/-- The address of a word of a program that ends by 2^64. -/
theorem toNat_wordAddress {base : Word} {k n : Nat} (hfits : base.toNat + 4 * n ≤ 2 ^ 64) (hk : k < n) :
    (base + BitVec.ofNat 64 (4 * k)).toNat = base.toNat + 4 * k := by
  rw [BitVec.toNat_add, BitVec.toNat_ofNat]; omega

/-- Settles O38: word `k` of the program is bytes `4k` to `4k + 3` of those the launch writes. -/
theorem launchPlacesTheProgram : Obligations.LaunchPlacesTheProgram := by
  intro base program syncs s hfits
  refine ⟨rfl, rfl, rfl, rfl, fun r => readX_congr rfl r, ⟨rfl, rfl, rfl⟩, rfl, rfl, ?_,
    fun a ha => launch_read_outside hfits ha⟩
  intro k w s' hw hmem hpc
  have haddr : s'.pc.toNat = base.toNat + 4 * k := by
    rw [hpc]; exact toNat_wordAddress hfits (List.getElem?_eq_some_iff.mp hw).1
  have hfetch : fetchWord s' = some w := fetchWord_of_bytes fun b hb => by
    rw [hmem, haddr, Nat.add_assoc]; exact launch_read_word hfits hw hb
  refine ⟨hfetch, fun i halign hsync hd => ?_⟩
  exact step_of_fetch hsync (fetch_of_fetchWord (by omega) hfetch hd)

/-! ### How far a run gets (R180, R181) -/

theorem run_succ_next_iff_of_core (M : Host.Core) {k : Nat} {s s' : M.State} :
    M.run (k + 1) s = .next s' ↔ ∃ s1, M.step s = .next s1 ∧ M.run k s1 = .next s' := by
  rw [Host.Core.run]
  cases M.step s <;> simp

/-- A run's first step is the machine's. -/
theorem run_succ_next_iff {k : Nat} {s s' : State} :
    Host.Core.run Sys2Proof.core (k + 1) s = .next s' ↔
      ∃ s1, step s = .next s1 ∧ Host.Core.run Sys2Proof.core k s1 = .next s' :=
  run_succ_next_iff_of_core Sys2Proof.core

theorem exec_next_room {i : Instr} {s s' : State} (h : exec i s = .next s') : PcHasRoom s := by
  cases hk : i.kind with
  | read =>
    obtain ⟨p, -, ht⟩ := (exec_read_next_iff hk).mp h
    obtain ⟨-, -, -, hpc, -⟩ := transferRead_next ht
    exact hpc
  | write =>
    obtain ⟨p, -, ht⟩ := (exec_write_next_iff hk).mp h
    obtain ⟨-, -, -, hpc, -⟩ := transferWrite_next ht
    exact hpc

theorem exec_next_syncPlaces {i : Instr} {s s' : State} (h : exec i s = .next s') : s'.syncPlaces = s.syncPlaces := by
  obtain ⟨p, j, d, -, -, ⟨-, -, rfl⟩ | ⟨-, -, rfl⟩⟩ := exec_next_cases h
  · simp [readState]
  · simp [writeState]

/-- `s'` comes after `used` `ContextSync` steps and `ran` instructions from `s`: each `ContextSync` used up one place,
each instruction advanced `pc` without wrap-around, and a byte stood where each was fetched. -/
structure Progress (used ran : Nat) (s s' : State) : Prop where
  mem : s'.mem = s.mem
  places : used + s'.syncPlaces.length = s.syncPlaces.length
  pc : s'.pc.toNat = s.pc.toNat + 4 * ran
  fetched : ∀ r < ran, Memory.read s.mem (s.pc.toNat + 4 * r) ≠ none

theorem Progress.refl (s : State) : Progress 0 0 s s where
  mem := rfl
  places := Nat.zero_add _
  pc := rfl
  fetched := nofun

theorem Progress.trans {u u' r r' : Nat} {s s1 s' : State} (h : Progress u r s s1) (h' : Progress u' r' s1 s') :
    Progress (u + u') (r + r') s s' where
  mem := h'.mem.trans h.mem
  places := by rw [← h.places, ← h'.places, Nat.add_assoc]
  pc := by rw [h'.pc, h.pc]; omega
  fetched q hq := by
    by_cases hqr : q < r
    · exact h.fetched q hqr
    · have hlater := h'.fetched (q - r) (by omega)
      rw [h.mem, h.pc] at hlater
      have haddr : s.pc.toNat + 4 * r + 4 * (q - r) = s.pc.toNat + 4 * q := by omega
      rwa [haddr] at hlater

theorem progress_contextSync {s : State} (h : s.pc ∈ s.syncPlaces) :
    Progress 1 0 s (contextSync { s with syncPlaces := s.syncPlaces.erase s.pc }) where
  mem := rfl
  places := by
    have hpos := List.length_pos_of_mem h
    rw [contextSync_syncPlaces, List.length_erase_of_mem h]; omega
  pc := rfl
  fetched := nofun

theorem progress_exec {i : Instr} {s s' : State} (hf : fetch s = .ok i) (h : exec i s = .next s') :
    Progress 0 1 s s' where
  mem := by obtain ⟨-, -, hmem⟩ := exec_next_surroundings h; exact hmem
  places := by rw [exec_next_syncPlaces h, Nat.zero_add]
  pc := by
    have hroom := exec_next_room h
    rw [exec_next_pc h, BitVec.toNat_add, BitVec.toNat_ofNat]; omega
  fetched r hr := by
    obtain rfl : r = 0 := Nat.lt_one_iff.mp hr
    exact read_pc_of_fetch hf

/-- Each step of a run is a `ContextSync` or an instruction. -/
theorem run_progress {k : Nat} {s s' : State} (h : Host.Core.run Sys2Proof.core k s = .next s') :
    ∃ used ran, used + ran = k ∧ Progress used ran s s' := by
  induction k generalizing s with
  | zero =>
    obtain rfl : s = s' := Host.Outcome.next.inj h
    exact ⟨0, 0, rfl, .refl s⟩
  | succ k ih =>
    obtain ⟨s1, hstep, hrun⟩ := run_succ_next_iff.mp h
    obtain ⟨used, ran, rfl, hrest⟩ := ih hrun
    rcases step_next_cases hstep with ⟨hsync, rfl⟩ | ⟨i, -, hf, hi⟩
    · exact ⟨1 + used, 0 + ran, by omega, (progress_contextSync hsync).trans hrest⟩
    · exact ⟨0 + used, 1 + ran, by omega, (progress_exec hf hi).trans hrest⟩

/-- No more instructions run than the program has words: past it no byte stands, and a program that reaches past 2^64 is
stopped by the refusal of the wrap-around. -/
theorem Progress.ran_le {used ran : Nat} {base : Word} {program : List InsnWord} {syncs : List Word} {s s' : State}
    (h : Progress used ran (launch base program syncs s) s') : ran ≤ program.length := by
  have hpc : s'.pc.toNat = base.toNat + 4 * ran := h.pc
  by_contra hlt
  have hfits : base.toNat + 4 * program.length ≤ 2 ^ 64 := by have := s'.pc.isLt; omega
  exact h.fetched program.length (by omega) (launch_read_outside hfits (.inr le_rfl))

/-- What a run of `k` steps from a launch has done. -/
theorem run_launch {base : Word} {program : List InsnWord} {syncs : List Word} {s s' : State} {k : Nat}
    (h : Host.Core.run Sys2Proof.core k (launch base program syncs s) = .next s') :
    ∃ used ran, used + ran = k ∧ used + s'.syncPlaces.length = syncs.length ∧ ran ≤ program.length ∧
      s'.pc = base + BitVec.ofNat 64 (4 * ran) := by
  obtain ⟨used, ran, hk, hprog⟩ := run_progress h
  have hpc : s'.pc.toNat = base.toNat + 4 * ran := hprog.pc
  refine ⟨used, ran, hk, hprog.places, hprog.ran_le, BitVec.eq_of_toNat_eq ?_⟩
  rw [BitVec.toNat_add, BitVec.toNat_ofNat, Nat.add_mod_mod, ← hpc, Nat.mod_eq_of_lt s'.pc.isLt]

/-- Settles O39: a run has at most one `ContextSync` step for each place and one instruction for each word. -/
theorem straightLineProgramEnds : Obligations.StraightLineProgramEnds := by
  intro base program syncs s s' k hlong h
  obtain ⟨used, ran, hk, hplaces, hran, -⟩ := run_launch h
  omega

/-- Settles O40: the instructions run are the steps that were no `ContextSync`. -/
theorem completedProgramEndsSuccessfully : Obligations.CompletedProgramEndsSuccessfully := by
  intro base program syncs s s' k h
  obtain ⟨used, ran, rfl, hplaces, hran, hpc⟩ := run_launch h
  have hsteps : used + ran - used = ran := Nat.add_sub_cancel_left used ran
  rw [← hsteps] at hran hpc
  exact ⟨used, hplaces, Nat.le_add_right used ran, hran, hpc, fun hall => ⟨h, hall ▸ hpc⟩⟩

end Sys2Proof.Machine
end

section
/-! The decoder and the encoder: a word decodes to an instruction exactly when the mask leaves the instruction's match
value and its low bits name the operand (30_encoding.md R85 to R88), and two words that agree on both are one word. -/

namespace Sys2Proof.Machine

/-! ### The operand field `Rt` (30_encoding.md R87) -/

theorem XReg.ofField_wellFormed (f : BitVec 5) : (XReg.ofField f).WellFormed := by
  unfold XReg.ofField
  split
  case isTrue => rfl
  case isFalse hne =>
    have hne' : f.toNat ≠ 31 := fun h => hne (BitVec.eq_of_toNat_eq h)
    exact decide_eq_true (by omega)

theorem XReg.toField_ofField (f : BitVec 5) : (XReg.ofField f).toField = f := by
  unfold XReg.ofField
  split
  case isTrue h => exact h.symm
  case isFalse => exact BitVec.eq_of_toNat_eq (by simp [XReg.toField])

/-! ### Decoding (30_encoding.md R86, R88) -/

/-- R86 for all six at once: the mask leaves the match value of the row, and `Rt` is the operand. -/
theorem decode_eq_ok_iff {w : InsnWord} {i : Instr} :
    decode w = .ok i ↔
      w &&& insnMask = Laws.EncodedForm.matchValue i ∧ i.operand = XReg.ofField (w.extractLsb' 0 5) := by
  constructor
  · intro h
    simp only [decode] at h
    split_ifs at h <;> cases h <;> exact ⟨‹_›, rfl⟩
  · rintro ⟨hm, ht⟩
    cases i <;> simp only [Laws.EncodedForm.matchValue, Instr.operand] at hm ht <;> simp [decode, hm, ht]

/-- The decoder rejects for one reason only, and names the word (R88). -/
theorem reject_of_decode_eq_error {w : InsnWord} {r : DecodeReject} (h : decode w = .error r) : r = .notInScope w := by
  simp only [decode] at h
  split_ifs at h
  cases h
  rfl

theorem decode_eq_error_iff {w : InsnWord} : decode w = .error (.notInScope w) ↔ ∀ i, decode w ≠ .ok i := by
  cases h : decode w with
  | ok i => simp
  | error r => simp [reject_of_decode_eq_error h]

/-! ### The word layout (30_encoding.md R85) -/

/-- The mask and the operand field leave no bit of a word free. -/
theorem eq_of_insnMask_of_rt {v w : InsnWord} (hm : v &&& insnMask = w &&& insnMask)
    (hrt : v.extractLsb' 0 5 = w.extractLsb' 0 5) : v = w := by
  have hmask : ∀ b < 32, insnMask.getLsbD b = decide (5 ≤ b) := by decide
  refine BitVec.eq_of_getLsbD_eq fun b hb => ?_
  by_cases h5 : b < 5
  · simpa [h5] using congrArg (BitVec.getLsbD · b) hrt
  · have h5' : 5 ≤ b := by omega
    simpa [hmask b hb, h5'] using congrArg (BitVec.getLsbD · b) hm

/-- The encoder puts each field of R85 at its place. -/
theorem carriesTuple_sysMoveWord (k : AccessKind) (n : AccessorName) (f : BitVec 5) :
    CarriesTuple (sysMoveWord k n f) k.bitL 0b11#2 n.op1 0b1010#4 n.crm 0b001#3 f := by
  unfold CarriesTuple
  revert f; cases k <;> cases n <;> decide

/-! ### The statements on encoding -/

/-- Settles O1: the mask leaves the match value of the row, and the field of a well-formed operand names it again. -/
theorem decodeOfEncodeIsIdentity : Obligations.DecodeOfEncodeIsIdentity := fun _ hwf => decode_encode hwf

/-- Settles O2: the word and the encoding of what it decodes to agree under the mask and in `Rt`. -/
theorem encodeOfDecodeIsIdentity : Obligations.EncodeOfDecodeIsIdentity := by
  intro w i h
  obtain ⟨hm, ht⟩ := decode_eq_ok_iff.mp h
  have hwf : i.operand.WellFormed := ht ▸ XReg.ofField_wellFormed _
  refine ⟨eq_of_insnMask_of_rt ?_ ?_, hwf⟩
  · rw [encode, sysMoveWord_and_insnMask, sysMoveWord_zero_eq_matchValue, hm]
  · rw [encode, sysMoveWord_rt, ht, XReg.toField_ofField]

/-- Settles O3: each row by the decoder's rule; where no row matches, the one rejection. -/
theorem maskAndMatchDecideTheInstruction : Obligations.MaskAndMatchDecideTheInstruction := fun _ _ =>
  ⟨decode_eq_ok_iff, decode_eq_ok_iff, decode_eq_ok_iff, decode_eq_ok_iff, decode_eq_ok_iff, decode_eq_ok_iff,
    decode_eq_error_iff.symm⟩

/-- Settles O4: the tuple of a name does not depend on the direction, nor on the operand. -/
theorem encodedWordCarriesTheTuple : Obligations.EncodedWordCarriesTheTuple := fun t _ =>
  ⟨carriesTuple_sysMoveWord .read .mair2El1 t.toField, carriesTuple_sysMoveWord .write .mair2El1 t.toField,
    carriesTuple_sysMoveWord .read .mair2El12 t.toField, carriesTuple_sysMoveWord .write .mair2El12 t.toField,
    carriesTuple_sysMoveWord .read .mair2El2 t.toField, carriesTuple_sysMoveWord .write .mair2El2 t.toField⟩

/-- Settles O5: closed words. -/
theorem specWordsDecode : Obligations.SpecWordsDecode := by
  unfold Obligations.SpecWordsDecode
  and_intros <;> decide

/-! ### The syndrome of a word (60_exceptions.md R141) -/

/-- The syndrome is a function of the fields a word carries. -/
theorem trapISS_of_carriesTuple {w : InsnWord} {l : BitVec 1} {op0 : BitVec 2} {op1 : BitVec 3} {crn crm : BitVec 4}
    {op2 : BitVec 3} {rt : BitVec 5} (h : CarriesTuple w l op0 op1 crn crm op2 rt) :
    trapISS w = 0#3 ++ op0 ++ op2 ++ op1 ++ crn ++ rt ++ crm ++ l := by
  obtain ⟨-, rfl, rfl, rfl, rfl, rfl, rfl, rfl⟩ := h
  rfl

/-- `Rt` stands in the syndrome from bit 5 on. -/
theorem trapESR_sysMoveWord (k : AccessKind) (n : AccessorName) (f : BitVec 5) :
    trapESR 0x18#8 (sysMoveWord k n f) = trapESR 0x18#8 (sysMoveWord k n 0#5) + (f.setWidth 32 <<< 5) := by
  simp only [trapESR, trapISS_of_carriesTuple (carriesTuple_sysMoveWord ..)]
  revert f; cases k <;> cases n <;> decide

/-- Settles O46: the values R141 prints are those for `Rt = 0`. -/
theorem syndromeOfEachTrappedAccessor : Obligations.SyndromeOfEachTrappedAccessor := fun t _ =>
  ⟨trapESR_sysMoveWord .read .mair2El1 t.toField, trapESR_sysMoveWord .write .mair2El1 t.toField,
    trapESR_sysMoveWord .read .mair2El12 t.toField, trapESR_sysMoveWord .write .mair2El12 t.toField,
    trapESR_sysMoveWord .read .mair2El2 t.toField, trapESR_sysMoveWord .write .mair2El2 t.toField⟩

end Sys2Proof.Machine
end

section
/-! One step of the machine: what the fetch answers wherever `pc` points, the environment's `ContextSync`, the word a
loader places, and the state after reset (20_memory.md R61, R62, R71; 10_state.md R34). -/

namespace Sys2Proof.Machine

/-! ### The fetch (R61, R62, R88) -/

section
variable {s : State}

theorem fetchWord_of_reads {b0 b1 b2 b3 : Byte} (h0 : Memory.read s.mem s.pc.toNat = some b0)
    (h1 : Memory.read s.mem (s.pc.toNat + 1) = some b1) (h2 : Memory.read s.mem (s.pc.toNat + 2) = some b2)
    (h3 : Memory.read s.mem (s.pc.toNat + 3) = some b3) : fetchWord s = some (b3 ++ b2 ++ b1 ++ b0) := by
  simp only [fetchWord, h0, h1, h2, h3]; rfl

/-- A word with a byte that has no value is not fetched. -/
theorem fetchWord_eq_none {k : Nat} (hk : k < 4) (h : Memory.read s.mem (s.pc.toNat + k) = none) :
    fetchWord s = none := by
  unfold fetchWord
  split
  next h0 h1 h2 h3 => interval_cases k <;> simp [h0, h1, h2, h3] at h
  next => rfl

theorem fetch_of_misaligned (hpc : s.pc.toNat % 4 ≠ 0) : fetch s = .error .pcMisaligned := if_pos hpc

theorem fetch_of_fetchWord_none (hpc : s.pc.toNat % 4 = 0) (hw : fetchWord s = none) :
    fetch s = .error .fetchOutsideProgram := by
  simp only [fetch, hpc, hw, ne_eq, not_true_eq_false, if_false]

theorem fetch_of_notInScope {w : InsnWord} (hpc : s.pc.toNat % 4 = 0) (hw : fetchWord s = some w)
    (hd : decode w = .error (.notInScope w)) : fetch s = .error (.notInScope w) := by
  simp only [fetch, hpc, hw, hd, refusalOfReject, ne_eq, not_true_eq_false, if_false]

/-- Where no `ContextSync` is scheduled, the step refuses what the fetch refuses. -/
theorem step_of_fetch_error {r : Refusal} (hsync : s.pc ∉ s.syncPlaces) (h : fetch s = .error r) :
    step s = .refused r := by
  simp only [step, environmentStep_none hsync, h]

theorem step_of_scheduled (hsync : s.pc ∈ s.syncPlaces) :
    step s = .next (contextSync { s with syncPlaces := s.syncPlaces.erase s.pc }) := by
  have henv : environmentStep s = some (contextSync { s with syncPlaces := s.syncPlaces.erase s.pc }) :=
    if_pos (by simpa using hsync)
  simp only [step, henv]

end

/-- Settles O6: the four bytes are the word fetched. -/
theorem stepRunsTheDecodedInstruction : Obligations.StepRunsTheDecodedInstruction := by
  intro s i b0 b1 b2 b3 hsync hpc h0 h1 h2 h3 _ hd
  exact step_of_fetch hsync (fetch_of_fetchWord hpc (fetchWord_of_reads h0 h1 h2 h3) hd)

/-- Settles O8: the three refusals of the fetch. -/
theorem stepRefusesWhatIsNoInstruction : Obligations.StepRefusesWhatIsNoInstruction := by
  intro s hsync
  refine ⟨fun hpc => step_of_fetch_error hsync (fetch_of_misaligned hpc), ?_, ?_⟩
  · rintro hpc ⟨k, hk, hnone⟩
    exact step_of_fetch_error hsync (fetch_of_fetchWord_none hpc (fetchWord_eq_none hk hnone))
  · intro b0 b1 b2 b3 hpc h0 h1 h2 h3 hno
    exact step_of_fetch_error hsync
      (fetch_of_notInScope hpc (fetchWord_of_reads h0 h1 h2 h3) (decode_eq_error_iff.mpr hno))

/-- Settles O7: the one state the environment's step ends in, field by field. -/
theorem contextSyncStepEmptiesTheRecords : Obligations.ContextSyncStepEmptiesTheRecords := by
  intro s hsync
  exact ⟨_, step_of_scheduled hsync, rfl, rfl, rfl, rfl, rfl, rfl, fun r => readX_congr rfl r,
    ⟨rfl, rfl, rfl⟩, rfl, rfl, rfl, fun _ => rfl⟩

/-! ### A word placed where the next fetch reads (R61, R62, R181) -/

theorem alignedDown_toNat (a : Word) : (a &&& ~~~3#64).toNat = a.toNat / 4 * 4 := by
  have hmask : ∀ b < 64, (~~~3#64).getLsbD b = decide (2 ≤ b) := by decide
  have hsplit : a &&& ~~~3#64 = (a >>> 2) <<< 2 := by
    refine BitVec.eq_of_getLsbD_eq fun b hb => ?_
    rw [BitVec.getLsbD_and, hmask b hb]
    by_cases h2 : b < 2
    · simp [h2, Nat.not_le.mpr h2]
    · have hb2 : 2 + (b - 2) = b := by omega
      simp [h2, hb, hb2, Nat.not_lt.mp h2]
  rw [hsplit]
  simp [BitVec.toNat_shiftLeft, Nat.shiftLeft_eq, Nat.shiftRight_eq_div_pow]
  omega

theorem withFetchWord_toNat (s : State) (w : InsnWord) : s.withFetchWord 32 w.toNat = placeFetchWord s w := by
  rw [State.withFetchWord, Nat.mod_eq_of_lt w.isLt, BitVec.ofNat_toNat, BitVec.setWidth_eq]

section
variable (s : State) (w : InsnWord)

theorem placeFetchWord_pc_toNat : (placeFetchWord s w).pc.toNat = s.pc.toNat / 4 * 4 := alignedDown_toNat s.pc

theorem fetchWord_placeFetchWord : fetchWord (placeFetchWord s w) = some w := by
  have hpc := placeFetchWord_pc_toNat s w
  have hfits : (placeFetchWord s w).pc.toNat + (bytesOfWord w).length ≤ 2 ^ 64 := by
    have := s.pc.isLt
    rw [hpc, bytesOfWord_length]; omega
  exact fetchWord_of_bytes fun b hb => Memory.read_writeBytes_inside hfits hb

/-- No `ContextSync` is left where the word is placed (log entry 25). -/
theorem placeFetchWord_not_scheduled : (placeFetchWord s w).pc ∉ (placeFetchWord s w).syncPlaces := by
  simp [placeFetchWord]

end

/-- Settles O9: the placed word is fetched, and no environment step comes before it. -/
theorem placedWordIsRunNext : Obligations.PlacedWordIsRunNext := by
  intro s w i hd
  rw [withFetchWord_toNat]
  have hpc := placeFetchWord_pc_toNat s w
  refine ⟨?_, fun halign => BitVec.eq_of_toNat_eq (by omega), fun r => readX_congr rfl r, rfl, rfl, rfl⟩
  exact step_of_fetch (placeFetchWord_not_scheduled s w)
    (fetch_of_fetchWord (by omega) (fetchWord_placeFetchWord s w) hd)

/-! ### Reset -/

theorem readX_reset (t : XReg) : readX t State.reset = 0#64 := by
  cases t with
  | xzr => rfl
  | x n => unfold readX; split <;> simp [State.reset]

/-- Settles O37: the values of the log, every general register by its number. -/
theorem resetLeavesTheLoggedValues : Obligations.ResetLeavesTheLoggedValues :=
  ⟨readX_reset, rfl, rfl, rfl, rfl, rfl, rfl, rfl, fun _ => rfl⟩

end Sys2Proof.Machine
end

section
/-! What stops an instruction: its exceptions (60_exceptions.md R140 to R143) and its two refusals (10_state.md R28,
70_reset_and_hazards.md R176); and the register that stops nothing while RES0 (10_state.md R24). -/

namespace Sys2Proof.Machine

/-! ### Exceptions -/

theorem exec_eq_undefined_iff {i : Instr} {s : State} : exec i s = .fault .undefined ↔ UndefinedCause i s := by
  rw [exec_fault_iff, ← verdict_undefined_iff]
  simp

theorem exec_eq_sysTrap_iff {i : Instr} {s : State} {g : TrapTarget} {c : BitVec 8} {w : InsnWord} :
    exec i s = .fault (.sysTrap g c w) ↔ verdict i s = .trap g ∧ c = 0x18#8 ∧ w = encode i := by
  rw [exec_fault_iff]
  simp

/-- Settles O10: the chain of tests of the name decides the exception. -/
theorem faultCausesOfEveryAccessor : Obligations.FaultCausesOfEveryAccessor := by
  intro i s
  refine ⟨exec_eq_undefined_iff, ?_, ?_, fun f hf => ?_⟩
  · rw [exec_eq_sysTrap_iff, verdict_trapEl2_iff, and_iff_left ⟨rfl, rfl⟩]
  · rw [exec_eq_sysTrap_iff, verdict_trapEl3_iff, and_iff_left ⟨rfl, rfl⟩]
  · rcases exec_fault_iff.mp hf with ⟨-, rfl⟩ | ⟨g, -, rfl⟩
    · exact .inl rfl
    · cases g with
      | el2 => exact .inr (.inl rfl)
      | el3 => exact .inr (.inr rfl)

/-- Settles O11: the word recorded is the instruction's own. -/
theorem trapRecordsTheTrappedInstruction : Obligations.TrapRecordsTheTrappedInstruction := by
  intro i s g c w hwf h
  obtain ⟨-, hcode, rfl⟩ := exec_eq_sysTrap_iff.mp h
  exact ⟨hcode, decode_encode hwf⟩

/-! ### Refusals -/

/-- The access meets the hazard under the spec's own treatment of it (R176). -/
def RefusedForHazard (hazard : Bool) (s : State) : Prop := hazard = true ∧ s.cfg.crossName = .refuse

/-- The refusals of a transfer, the hazard's before the wrap-around's (log entry 26). -/
def TransferRefusal (hazard : Bool) (s : State) (r : Refusal) : Prop :=
  (RefusedForHazard hazard s ∧ r = .unsynchronisedCrossNameAccess) ∨
    (¬ RefusedForHazard hazard s ∧ ¬ PcHasRoom s ∧ r = .pcWrap)

theorem transferRefusal_of_hazard {hz : Bool} {s : State} {r : Refusal} (h : RefusedForHazard hz s) :
    TransferRefusal hz s r ↔ r = .unsynchronisedCrossNameAccess := by
  simp [TransferRefusal, h]

theorem transferRefusal_of_not_hazard {hz : Bool} {s : State} {r : Refusal} (h : ¬ RefusedForHazard hz s) :
    TransferRefusal hz s r ↔ ¬ PcHasRoom s ∧ r = .pcWrap := by
  simp [TransferRefusal, h]

/-- Once the hazard has let a transfer pass, only its completion can refuse it. -/
theorem complete_refused_iff_of_arbitrate {hz : Bool} {ps : List Nat} {j : Nat} {s s1 s2 : State} {r : Refusal}
    (ha : arbitrate hz ps s = some (j, s1)) (hpc : s2.pc = s1.pc) :
    complete s2 = .refused r ↔ TransferRefusal hz s r := by
  have hpass : ¬ RefusedForHazard hz s := fun h => by simp [arbitrate_none_iff.mpr h] at ha
  have hpc1 : s1.pc = s.pc := by
    rcases arbitrate_some ha with ⟨-, -, rfl⟩ | ⟨-, -, -, rfl⟩ <;> rfl
  rw [complete_refused_iff, transferRefusal_of_not_hazard hpass, hpc, hpc1, PcHasRoom, Nat.not_lt]

theorem transferRead_refused_iff {n : AccessorName} {p : Place} {t : XReg} {s : State} {r : Refusal} :
    transferRead n p t s = .refused r ↔ TransferRefusal (crossNameHazard n .read p s) s r := by
  unfold transferRead
  split
  next hnone => rw [transferRefusal_of_hazard (arbitrate_none_iff.mp hnone)]; simp [eq_comm]
  next j s1 hsome => exact complete_refused_iff_of_arbitrate hsome (by simp)

theorem transferWrite_refused_iff {n : AccessorName} {p : Place} {t : XReg} {s : State} {r : Refusal} :
    transferWrite n p t s = .refused r ↔ TransferRefusal (crossNameHazard n .write p s) s r := by
  unfold transferWrite
  split
  next hnone => rw [transferRefusal_of_hazard (arbitrate_none_iff.mp hnone)]; simp [eq_comm]
  next j s1 hsome => exact complete_refused_iff_of_arbitrate hsome (by simp)

/-- An instruction is refused by its transfer only: the exceptions come before, and instead of, it (R147). -/
theorem exec_refused_iff {i : Instr} {s : State} {r : Refusal} :
    exec i s = .refused r ↔
      ∃ p, verdict i s = .reach p ∧ TransferRefusal (crossNameHazard i.name i.kind p s) s r := by
  rw [exec_eq_perform]
  cases verdict i s with
  | undefined => cases i.kind <;> simp [perform, performRead, performWrite, raiseUndefined]
  | trap g => cases i.kind <;> simp [perform, performRead, performWrite, systemAccessTrap]
  | reach p =>
    cases i.kind with
    | read => simpa [perform, performRead] using transferRead_refused_iff
    | write => simpa [perform, performWrite] using transferWrite_refused_iff

/-- An access that meets the hazard conflicts with one recorded for a pair of its name. -/
theorem conflict_of_crossNameHazard {i : Instr} {k : AccessKind} {s : State} {p : Place} (hv : verdict i s = .reach p)
    (hz : crossNameHazard i.name k p s = true) :
    ∃ h : HazardPair, h.Possible s ∧ i.name ∈ h.names ∧ CrossNameConflict (unsyncOf h s).accesses i.name k := by
  unfold crossNameHazard at hz
  cases hpair : hazardPair s.ctx p with
  | none => simp [hpair] at hz
  | some h =>
    obtain ⟨hp, hn⟩ := (hazardPair_iff_of_reach hv).mp hpair
    rw [hpair] at hz
    exact ⟨h, hp, hn, conflicts_iff.mp hz⟩

/-- Settles O12: the transfer's two refusals, that of the hazard for either pair. -/
theorem refusalCausesOfEveryAccessor : Obligations.RefusalCausesOfEveryAccessor := by
  intro i s r h
  obtain ⟨p, hv, ⟨⟨hz, hmode⟩, rfl⟩ | ⟨-, hroom, rfl⟩⟩ := exec_refused_iff.mp h
  · obtain ⟨g, hp, hn, hc⟩ := conflict_of_crossNameHazard hv hz
    refine .inr ⟨rfl, hmode, ?_⟩
    cases g with
    | el2 => exact .inl ⟨hp, mem_names_el2_iff.mp hn, hc⟩
    | el1 => exact .inr ⟨hp, mem_names_el1_iff.mp hn, hc⟩
  · exact .inl ⟨rfl, hroom⟩

/-- Without a cause of an exception the chain of tests ends in a place. -/
theorem verdict_reach_of_no_cause {i : Instr} {s : State} (hundef : ¬ UndefinedCause i s)
    (htrap2 : ¬ TrapEl2Cause i s) (htrap3 : ¬ TrapEl3Cause i s) : ∃ p, verdict i s = .reach p := by
  cases hv : verdict i s with
  | undefined => exact absurd (verdict_undefined_iff.mp hv) hundef
  | trap g => cases g with
    | el2 => exact absurd (verdict_trapEl2_iff.mp hv) htrap2
    | el3 => exact absurd (verdict_trapEl3_iff.mp hv) htrap3
  | reach p => exact ⟨p, rfl⟩

/-- Settles O13: what passes its tests and the hazard is stopped by its completion. -/
theorem wrapAroundOfPcIsRefused : Obligations.WrapAroundOfPcIsRefused := by
  intro i s hroom hundef htrap2 htrap3 hmode
  obtain ⟨p, hv⟩ := verdict_reach_of_no_cause hundef htrap2 htrap3
  have hpass : ¬ RefusedForHazard (crossNameHazard i.name i.kind p s) s := by
    rintro ⟨hz, hrefuse⟩
    rcases hmode with hrace | hno
    · simp [hrace] at hrefuse
    · simp [(crossNameHazard_eq_false_iff_noHazard hv).mpr hno] at hz
  exact exec_refused_iff.mpr ⟨p, hv, (transferRefusal_of_not_hazard hpass).mpr ⟨hroom, rfl⟩⟩

/-! ### `MAIR2_EL2` as RES0 (R24) -/

/-- At EL3 the name MAIR2_EL2 is of no pair whose hazard is possible. -/
theorem noHazard_of_res0 {k : AccessKind} {s : State} (hres0 : Res0Access s) : NoHazard .mair2El2 k s := by
  obtain ⟨hel, -⟩ := hres0
  exact ⟨fun ⟨hel2, _⟩ => by simp [hel] at hel2, fun _ hne => absurd rfl hne⟩

theorem RecordsExtended.sameRecords_of_res0 {k : AccessKind} {v : Word} {s s' : State}
    (hrec : RecordsExtended .mair2El2 k v s s') (hres0 : Res0Access s) : SameRecords s s' := by
  obtain ⟨hel, -⟩ := hres0
  obtain ⟨-, -, hsame, hdraws⟩ := hrec
  obtain ⟨h2, h1⟩ := hsame (fun ⟨⟨hel2, _⟩, _⟩ => by simp [hel] at hel2) fun ⟨_, hne⟩ => hne rfl
  exact ⟨h2, h1, hdraws⟩

/-- Settles O20: the completing case of R120 and R121 at EL3, under each behaviour of `res0Mode`. -/
theorem mair2El2IsRes0WithoutEl2 : Obligations.Mair2El2IsRes0WithoutEl2 := by
  intro t s ht hpres hpc hres0
  have hreach : Mair2El2Reaches s := .inr hres0.1
  obtain ⟨-, -, -, -, hmrs⟩ := mrsMair2El2RaisesOrCompletes t s ht
  obtain ⟨-, -, -, -, hmsr⟩ := msrMair2El2RaisesOrCompletes t s ht
  obtain ⟨sr, hr, hread, hrecr⟩ := hmrs hpres hpc hreach (noHazard_of_res0 hres0)
  obtain ⟨sw, hw, hwrite, hrecw⟩ := hmsr hpres hpc hreach (noHazard_of_res0 hres0)
  have hsamer := hrecr.sameRecords_of_res0 hres0
  have hsamew := hrecw.sameRecords_of_res0 hres0
  simp only [and_iff_right hres0] at hread hwrite
  cases hm : s.cfg.res0Mode with
  | razWi =>
    rw [if_pos hm] at hread hwrite
    exact ⟨⟨sr, hr, hsamer, hread⟩, sw, hw, hsamew, hwrite⟩
  | storage =>
    have hstore : s.cfg.res0Mode ≠ .razWi := by simp [hm]
    rw [if_neg hstore] at hread hwrite
    exact ⟨⟨sr, hr, hsamer, hread⟩, sw, hw, hsamew, hwrite⟩

end Sys2Proof.Machine
end
